-- ==== Sys2Proof/Word.lean ====
section
/-! DEFINITION. The word types of the part and the index types that number its objects.

An object the manual numbers from 1 (zone, door, ramp, physical position) is held by its place counted from 0. -/

namespace Sys2Proof

/-- An opcode, a tag or an event subject. -/
abbrev Byte := BitVec 8
/-- A trunk word: 16 bits (chapter 12). -/
abbrev Word := BitVec 16
/-- A branch word: 24 bits (chapter 12). -/
abbrev ChainWord := BitVec 24

/-- Fire zone z is held as z - 1. -/
abbrev ZoneId := Fin 8
/-- Fire door d is held as d - 1. -/
abbrev DoorId := Fin 24
/-- Ramp r is held as r - 1. -/
abbrev RampId := Fin 2
/-- Branches A to D as 0 to 3. -/
abbrev BranchId := Fin 4
/-- Physical position p of a chain is held as p - 1. -/
abbrev PlaceId := Fin 16
/-- Position index: branch number × 16 + physical position - 1 (2.2). -/
abbrev PosId := Fin 64
/-- Line pin L0 to L31. -/
abbrev PinId := Fin 32
/-- Channel 0 to 11. -/
abbrev ChanId := Fin 12
/-- Channel pair: pair k holds channels 2k and 2k + 1. -/
abbrev PairId := Fin 6
/-- Command slot 0 to 63. -/
abbrev SlotId := Fin 64
/-- Sign block 0 to 7. -/
abbrev BlockId := Fin 8
/-- Chime pattern 0 to 7. -/
abbrev ChimeId := Fin 8
/-- Permit entry 0 to 15. -/
abbrev PermitId := Fin 16
/-- Claimant number: 0 to 31 for the pins, 32 and 33 for the drive claims (R34). -/
abbrev Claimant := Fin 34

end Sys2Proof
end

