-- ==== Sys2Proof/Config.lean ====
section
/-! DEFINITION. What the manual leaves open (log entry 1). -/

namespace Sys2Proof

/-- The free values: nothing is known of them. The step applies it to the counter `State.freeSeq` wherever the manual
gives a result word no value (log entries 1, 8, 9, 10). -/
opaque Config.freeWord : Nat → Word

end Sys2Proof
end

