-- ==== Sys2Proof/Syntax.lean ====
section
/-! DEFINITION. The commands of the part: one constructor for each row of the opcode table.

Request rows carry the request's tag and the payload words that the row does not itself fix. -/

namespace Sys2Proof

/-- The segment a request came from (R20). -/
inductive Source
  | own
  | broadcast
  deriving DecidableEq, Repr

/-- What a branch's return line brought during the return window of a burst (R53). -/
inductive ReturnStream
  /-- The line showed no activity. -/
  | silent
  /-- Activity that cannot be read as whole words. -/
  | garbled
  /-- The words received, the return check word last. -/
  | words (ws : List ChainWord)
  deriving DecidableEq, Repr

/-- The two flash pairs an output can follow (R84). -/
inductive FlashPair
  | flash1
  | flash2
  deriving DecidableEq, Repr

/-- The commands, in the order of the opcode table. -/
inductive Instr
  | hardReset (straps : BitVec 5)
  /-- The words of the frame after its start delimiter, the check word last. -/
  | frameArrival (words : List Word)
  | unknownRequest (opcode tag : Byte) (payload : List Word)
  | junctionWrite (tag : Byte) (index : Word) (fields : List Word)
  | branchWrite (tag : Byte) (index : Word) (fields : List Word)
  | positionWrite (tag : Byte) (index : Word) (fields : List Word)
  | routeWrite (tag : Byte) (index : Word) (fields : List Word)
  | pinWrite (tag : Byte) (index : Word) (fields : List Word)
  | channelWrite (tag : Byte) (index : Word) (fields : List Word)
  | chimeWrite (tag : Byte) (index : Word) (fields : List Word)
  | zoneWrite (tag : Byte) (index : Word) (fields : List Word)
  | doorWrite (tag : Byte) (index : Word) (fields : List Word)
  | rampWrite (tag : Byte) (index : Word) (fields : List Word)
  | permitWrite (tag : Byte) (index : Word) (fields : List Word)
  | tableRead (tag : Byte) (table index : Word)
  | blockWrite (tag : Byte) (payload : List Word)
  | stateRead (tag : Byte) (kind index : Word)
  | configLock (tag : Byte) (payload : List Word)
  | restart (src : Source) (tag : Byte) (payload : List Word)
  | setAlarm (src : Source) (tag : Byte) (zone : Word)
  | evacuate (src : Source) (tag : Byte) (zone : Word)
  | clear (src : Source) (tag : Byte) (zone : Word)
  | isolate (src : Source) (tag : Byte) (zone : Word)
  | restore (src : Source) (tag : Byte) (zone : Word)
  | doorClose (tag : Byte) (door : Word)
  | doorReopen (tag : Byte) (door : Word)
  | doorDisable (tag : Byte) (door : Word)
  | doorEnable (tag : Byte) (door : Word)
  | doorAckFault (tag : Byte) (door : Word)
  | rampStop (tag : Byte) (ramp : Word)
  | rampAckFault (tag : Byte) (ramp : Word)
  | rampDisable (tag : Byte) (ramp : Word)
  | rampEnable (tag : Byte) (ramp : Word)
  | branchEnable (tag : Byte) (branch : Word)
  | branchDisable (tag : Byte) (branch : Word)
  | callPost (tag : Byte) (payload : List Word)
  | callCancel (src : Source) (tag : Byte) (callTag : Word)
  | outputSetOn (tag : Byte) (pin : Word)
  | outputSetFlash (tag : Byte) (pin : Word) (pair : FlashPair)
  | outputSetOff (tag : Byte) (pin : Word)
  | silenceTimerExpiry
  | localCycleTimerExpiry
  | burstEnd (branch : BranchId) (ret : ReturnStream)
  | returnLineContention (branch : BranchId)
  | rawInputChange (pin : PinId) (level : Bool)
  | inputFilterExpiry (pin : PinId)
  | stallCountReached (channel : ChanId)
  | pwmPeriodStart (pair : PairId)
  | pwmDutyEnd (pair : PairId)
  | chimeOnExpiry
  | chimeOffExpiry
  | loadGrant
  | windowTimerExpiry (zone : ZoneId)
  | magnetWarningExpiry (door : DoorId)
  | latchWarningExpiry (door : DoorId)
  | releasePulseExpiry (door : DoorId)
  | travelTimerExpiry (door : DoorId)
  | crewHoldExpiry (door : DoorId)
  | reopenTimerExpiry (door : DoorId)
  | runGraceExpiry (ramp : RampId)
  | unlockTimerExpiry (ramp : RampId)
  | lockTimerExpiry (ramp : RampId)
  | holdTimerExpiry (zone : ZoneId)
  | clipTimerExpiry (zone : ZoneId)
  | gapTimerExpiry (callTag : Byte) (zone : ZoneId)
  deriving DecidableEq, Repr

end Sys2Proof
end

