-- ==== Sys2Proof/Decode.lean ====
section
/-! DEFINITION. The opcode table of this block gives none of its rows any bits (each row's fields are empty), so no word
spells a command. The bits of requests and frames are read by FRAME_ARRIVAL (Machine/Trunk.lean). -/

namespace Sys2Proof

/-- No row of the opcode table has bits: no word decodes to a command. -/
def decodeTableWord (_nbits _w : Nat) : Option Instr := none

end Sys2Proof
end

