-- ==== Sys2Proof/Machine/State.lean ====
section
/-! DEFINITION. The state of the part as plain data, and the state right after hard reset.

An enumeration lists its values in the order that gives their codes (R196). A timer is absent when it is stopped and
otherwise holds its remaining time in microseconds. Durations in records keep the manual's own unit. -/

namespace Sys2Proof.Machine

/-- Nothing makes the block stop: a refused request is a reply (R22) and a lost event leaves the state as it is. -/
inductive Fault
  deriving DecidableEq, Repr

/-- Reasons for which a command has no meaning in this model. -/
inductive Refusal
  /-- Raised by an arm of `exec` for a command that has no meaning yet; safe. No arm raises it. -/
  | notModelled (mnemonic : String)
  deriving DecidableEq, Repr

/-- Stopped, or running with its remaining time in µs. -/
abbrev Timer := Option Nat

/-! ## Trunk Port (chapter 1) -/

/-- START, RUN and LOCAL (R15). -/
inductive Mode
  | start | run | localMode
  deriving DecidableEq, Repr

/-- State of the Trunk Port (R19). -/
structure Trunk where
  /-- The junction address sampled from the straps (R5). -/
  address : BitVec 5
  mode : Mode
  /-- The mode in which the frame being taken arrived (R6, R12). -/
  arrivalMode : Mode
  silence : Timer
  localCycle : Timer
  /-- The junction cycle count (R17). -/
  cycle : Word
  /-- Local cycles since LOCAL was entered, 0..65535 (R16). -/
  localCycles : Nat
  /-- Last-segment-rejected (R8). -/
  rejected : Bool
  /-- The frames emitted downstream since hard reset, oldest first, each without its start delimiter (R1). -/
  downstream : List (List Word)
  deriving DecidableEq, Repr

/-! ## Request Unit (chapter 2) -/

/-- The results of a request, in the order of the introduction's table (R196). -/
inductive Result
  | done | refusedRange | refusedConflict | refusedLocked | refusedState | refusedPermit | refusedFull
  | refusedDuplicate | unknownRequest
  deriving DecidableEq, Repr

/-- A management reply (R22). -/
structure Reply where
  opcode : Byte
  tag : Byte
  result : Result
  payload : List Word
  deriving DecidableEq, Repr

/-- The JUNCTION record (R28). -/
structure JunctionCfg where
  silenceTime : Nat
  localCycle : Nat
  runGrace : Nat
  loadBudget : Nat
  deriving DecidableEq, Repr

/-- The event kinds, in the order of R38. -/
inductive EventKind
  | zoneState | doorState | rampState | permitDropped | nodePresent | nodeAbsent | branchDegraded | branchRecovered
  | branchContended | loadWait | loadShed | loadRestored | callDone | callDropped | clipTimeout | trunkLost
  | trunkRestored | inputChange
  deriving DecidableEq, Repr

/-- An event record (2.8). -/
structure Event where
  kind : EventKind
  subject : Byte
  detail : Word
  stamp : Word
  deriving DecidableEq, Repr

/-- State of the Request Unit (R39). -/
structure RequestUnit where
  /-- The pending management reply (R11). -/
  reply : Option Reply
  /-- The configuration lock (R30). -/
  lock : Bool
  junction : JunctionCfg
  /-- The event queue, oldest first (R36). -/
  events : List Event
  overflow : Bool
  deriving DecidableEq, Repr

/-! ## Branch Engines (chapter 3) -/

/-- 125, 250, 500 or 1000 kbit/s (R40). -/
inductive BitRate
  | k125 | k250 | k500 | k1000
  deriving DecidableEq, Repr

structure BranchCfg where
  enable : Bool
  rate : BitRate
  /-- In word times. -/
  lead : Nat
  /-- In bit times. -/
  gap : Nat
  deriving DecidableEq, Repr

/-- R41. -/
inductive BranchState
  | disabled | idle | burst | contended
  deriving DecidableEq, Repr

/-- R43. -/
inductive NodeClass
  | general | sign | pa | sensor
  deriving DecidableEq, Repr

/-- R49. -/
inductive UnderrunPolicy
  | repeatLast | idle | safe
  deriving DecidableEq, Repr

structure PositionCfg where
  enabled : Bool
  fixed : Bool
  cls : NodeClass
  zone : Option ZoneId
  policy : UnderrunPolicy
  safeValue : Word
  deriving DecidableEq, Repr

/-- R55. -/
inductive Presence
  | unknown | present | absent
  deriving DecidableEq, Repr

/-- A position: its record and its derived fields (R43). -/
structure Position where
  cfg : PositionCfg
  presence : Presence
  missRun : Nat
  pendingWord : Option Word
  lastWord : Option Word
  /-- The contents bits of the last right reply, those of the position's class (R198). -/
  lastReply : Option Word
  deriving DecidableEq, Repr

/-- The command words of a burst (12.3). -/
inductive CommandWord
  | idle
  | value (v : Word)
  | signIdle
  | signHeader (rasterOnly : Bool) (colour : BitVec 3) (rows : BitVec 2)
  | signChar (row : Bool) (column : BitVec 5) (flash : Bool) (colour : BitVec 3) (code : BitVec 7)
  | paPlay (clip : Byte) (level : BitVec 4)
  | paStop
  | paKeep
  | poll
  deriving DecidableEq, Repr

/-- One position of a burst record (R48). -/
structure BurstEntry where
  place : PlaceId
  logical : Nat
  cls : NodeClass
  zone : Option ZoneId
  word : CommandWord
  deriving DecidableEq, Repr

/-- The snapshot fixed when a burst begins (R48). -/
structure BurstRecord where
  number : BitVec 2
  rate : BitRate
  lead : Nat
  gap : Nat
  entries : List BurstEntry
  deriving DecidableEq, Repr

/-- A Branch Engine (R62). -/
structure Branch where
  cfg : BranchCfg
  state : BranchState
  burst : Option BurstRecord
  previous : Option BurstRecord
  /-- The number of the last burst begun. -/
  number : BitVec 2
  held : Bool
  /-- The check-error run, 0..255 (R57). -/
  checkRun : Nat
  /-- Time left of the burst in flight (R51). -/
  left : Timer
  deriving DecidableEq, Repr

/-! ## Route Table (chapter 4) -/

structure RouteEntry where
  valid : Bool
  branch : BranchId
  place : Option PlaceId
  replyWanted : Bool
  deriving DecidableEq, Repr

/-- A slot: its route entry (R64), its reply holding (R70) and its VOID indication (R69). -/
structure Slot where
  entry : RouteEntry
  holding : Option Word
  fresh : Bool
  void : Option Word
  deriving DecidableEq, Repr

/-! ## Line Unit (chapter 5) -/

/-- The pin functions with their indexes, in the order of R77. -/
inductive PinFunction
  | unused
  | generalIn
  | generalOut
  | doorHoldback (d : DoorId)
  | doorRelease (d : DoorId)
  | doorOpenLimit (d : DoorId)
  | doorClosedLimit (d : DoorId)
  | doorHoldButton (d : DoorId)
  | rampLowerValve (r : RampId)
  | rampRaiseValve (r : RampId)
  | rampLock (r : RampId)
  | rampStowLimit (r : RampId)
  | rampLandLimit (r : RampId)
  | rampLockedLimit (r : RampId)
  | rampEncoder (r : RampId)
  | rampBeacon (r : RampId)
  | detector (z : ZoneId)
  | callPoint (z : ZoneId)
  | zoneBeacon (z : ZoneId)
  | chime (z : ZoneId)
  deriving DecidableEq, Repr

/-- R76. -/
inductive Polarity
  | activeHigh | activeLow
  deriving DecidableEq, Repr

structure PinCfg where
  function : PinFunction
  polarity : Polarity
  /-- 0, 1, 4, 16 or 64 ms. -/
  filter : Nat
  units : Nat
  sheddable : Bool
  report : Bool
  deriving DecidableEq, Repr

/-- R84. -/
inductive OutputSetting
  | off | on | flash1 | flash2
  deriving DecidableEq, Repr

structure Pin where
  cfg : PinCfg
  /-- The electrical level at the pin. -/
  raw : Bool
  /-- The electrical level the part has taken (R79). -/
  filtered : Bool
  filterTimer : Timer
  setting : OutputSetting
  deriving DecidableEq, Repr

/-- The claim classes, highest rank first (R85). -/
inductive ClaimClass
  | fire | motion | hold | service
  deriving DecidableEq, Repr

/-- A claim of load units (R85); its list is the list that holds it. -/
structure Claim where
  claimant : Claimant
  cls : ClaimClass
  units : Nat
  age : Nat
  shed : Bool
  deriving DecidableEq, Repr

/-- The load account (5.4). -/
structure Account where
  /-- In grant order. -/
  granted : List Claim
  /-- By class, then age (R86). -/
  pending : List Claim
  nextAge : Nat
  deriving DecidableEq, Repr

/-! ## Channel Pool (chapter 6) -/

/-- The bindings with their indexes, in the order of R95. -/
inductive Binding
  | none
  | rampValve (r : RampId)
  | rampEncoder (r : RampId)
  | rampSpeed (r : RampId)
  | zoneDetector (z : ZoneId)
  | chime
  | flash1
  | flash2
  deriving DecidableEq, Repr

/-- R95. -/
inductive CountClock
  | micro | milli
  deriving DecidableEq, Repr

structure ChannelCfg where
  binding : Binding
  clock : CountClock
  period : Nat
  duty : Nat
  deriving DecidableEq, Repr

/-- A running pair, held at its master (R100, R101). -/
structure PwmRun where
  count : Nat
  /-- µs since the count last advanced, on the 1 ms clock. -/
  sub : Nat
  period : Nat
  duty : Nat
  bufPeriod : Option Nat
  bufDuty : Option Nat
  output : Bool
  deriving DecidableEq, Repr

/-- An EVENT_COUNT channel (R103, R104). -/
structure CountRun where
  count : Nat
  /-- The direction is UP. -/
  up : Bool
  compare : Nat
  armed : Bool
  capture : Nat
  deriving DecidableEq, Repr

/-- A running WIDTH_CAPTURE channel (R106, R107). -/
structure CaptureRun where
  count : Nat
  capture : Nat
  minInterval : Nat
  stallCount : Nat
  /-- An edge has been counted since the start. -/
  edgeSeen : Bool
  /-- The stall notice of this interval has been sent. -/
  stalled : Bool
  deriving DecidableEq, Repr

/-- What a channel is doing; the mode follows from the binding (R97). -/
inductive ChannelRun
  | stopped
  | pwm (p : PwmRun)
  | counting (c : CountRun)
  | capturing (w : CaptureRun)
  deriving DecidableEq, Repr

structure Channel where
  cfg : ChannelCfg
  run : ChannelRun
  deriving DecidableEq, Repr

/-- A CHIME entry (R109). -/
structure ChimeCfg where
  tone : Nat
  duty : Nat
  onTime : Nat
  offTime : Nat
  repetitions : Nat
  deriving DecidableEq, Repr

/-- R110. -/
inductive PlayerState
  | idle | on | off
  deriving DecidableEq, Repr

structure Player where
  state : PlayerState
  pattern : ChimeId
  played : Nat
  timer : Timer
  deriving DecidableEq, Repr

/-! ## Zone Unit (chapter 7) -/

/-- The ZONE record (R115). -/
structure ZoneCfg where
  configured : Bool
  autoClose : Bool
  noHold : Bool
  threshold : Nat
  window : Nat
  alarmRaster : Nat
  holdTime : Nat
  idleBlock : Option BlockId
  fireClip : Option Nat
  fireBlock : Option BlockId
  evacClip : Option Nat
  evacBlock : Option BlockId
  doorClip : Option Nat
  doorBlock : Option BlockId
  callLevel : Nat
  alarmLevel : Nat
  deriving DecidableEq, Repr

inductive ZoneState
  | unused | normal | preAlarm | alarm | evacuate | isolated
  deriving DecidableEq, Repr

/-- The causes of a zone state change (R117). -/
inductive ZoneCause
  | localSource | command | restart
  deriving DecidableEq, Repr

structure Zone where
  cfg : ZoneCfg
  state : ZoneState
  window : Timer
  fault : Bool
  deriving DecidableEq, Repr

/-! ## Door Unit (chapter 8) -/

inductive DoorKind
  | magnet | latch
  deriving DecidableEq, Repr

/-- The DOOR record (R132). -/
structure DoorCfg where
  zone : ZoneId
  kind : DoorKind
  warning : Nat
  pulse : Nat
  travel : Nat
  retries : Nat
  holdTime : Nat
  maxHolds : Nat
  enabled : Bool
  deriving DecidableEq, Repr

inductive DoorState
  | disabled | opened | warning | releasing | closing | closed | ajar | obstructed | crewHold | reopening | fault
  deriving DecidableEq, Repr

/-- The door reasons, in the order of R150. -/
inductive DoorReason
  | record | pins | command | service | close | zone | timer | travel | retry | hold | holdEnd | holdRefused
  | reopen | reopenTimeout | limit | limits | restart
  deriving DecidableEq, Repr

structure Door where
  cfg : DoorCfg
  state : DoorState
  reason : DoorReason
  timer : Timer
  holdsUsed : Nat
  retriesUsed : Nat
  holdRequest : Bool
  /-- The release pulse in progress is that of a retry, whose CLOSING has the reason RETRY (R141). -/
  retryPulse : Bool
  deriving DecidableEq, Repr

/-! ## Ramp Unit (chapter 9) -/

/-- The RAMP record (R154). -/
structure RampCfg where
  zone : ZoneId
  units : Nat
  travel : Nat
  slowStow : Nat
  slowLand : Nat
  creepDuty : Nat
  runDuty : Nat
  slowDuty : Nat
  valvePeriod : Nat
  unlockTime : Nat
  lockTime : Nat
  minInterval : Nat
  stallTime : Nat
  enabled : Bool
  deriving DecidableEq, Repr

inductive RampState
  | disabled | stowed | awaitingLoad | unlocking | lowering | landed | raising | locking | held | fault
  deriving DecidableEq, Repr

/-- The ramp reasons, in the order of R171. -/
inductive RampReason
  | none | load | permit | zone | limit | trunk | runGrace | stopped | disabled | pins | unlockTimeout | lockTimeout
  | overspeed | stall | limits
  deriving DecidableEq, Repr

inductive Speed
  | creep | normal
  deriving DecidableEq, Repr

inductive Direction
  | lower | raise
  deriving DecidableEq, Repr

structure Ramp where
  cfg : RampCfg
  state : RampState
  reason : RampReason
  cmdDisabled : Bool
  lastToggle : Bool
  speed : Speed
  startDir : Direction
  lockWanted : Bool
  slowMark : Bool
  grace : Timer
  /-- The unlock timer in UNLOCKING, the lock timer in LOCKING. -/
  timer : Timer
  deriving DecidableEq, Repr

/-! ## Permit Table (chapter 10) -/

inductive PermitAction
  | rampLower (r : RampId)
  | rampRaise (r : RampId)
  | doorReopen (d : DoorId)
  | zoneClear (z : ZoneId)
  deriving DecidableEq, Repr

/-- A condition (R174); bit k of a set stands for the state coded k. -/
inductive Condition
  | cleared
  | door (d : DoorId) (states : BitVec 11)
  | ramp (r : RampId) (states : BitVec 10)
  | zone (z : ZoneId) (states : BitVec 6)
  | pin (p : PinId) (active : Bool)
  | node (p : PosId) (input : Fin 16) (active : Bool)
  deriving DecidableEq, Repr

/-- A permit entry (R173); `conditions` are the conditions in use, as many as the condition count. -/
structure PermitEntry where
  used : Bool
  action : PermitAction
  conditions : List Condition
  deriving DecidableEq, Repr

/-! ## Call Unit (chapter 11) -/

/-- The call classes, lowest rank first (R181). -/
inductive CallClass
  | passenger | crew | safety | fire | evacuate
  deriving DecidableEq, Repr

inductive CallOrigin
  | bridge | internal
  deriving DecidableEq, Repr

inductive ItemStatus
  | waiting | presenting | done
  deriving DecidableEq, Repr

/-- A progress item (R181). -/
structure ProgressItem where
  zone : ZoneId
  remaining : Nat
  status : ItemStatus
  gap : Timer
  deriving DecidableEq, Repr

/-- A call record (R181); its zone set is the zones of its items, ascending. -/
structure Call where
  tag : Byte
  cls : CallClass
  origin : CallOrigin
  clip : Option Nat
  block : Option BlockId
  pattern : Option ChimeId
  level : Option Nat
  repeats : Nat
  /-- In seconds. -/
  gap : Nat
  arrival : Word
  items : List ProgressItem
  deriving DecidableEq, Repr

inductive Phase
  | chimeWait | chime | clip | hold
  deriving DecidableEq, Repr

/-- What a zone is presenting (R185). -/
structure Presentation where
  tag : Byte
  phase : Phase
  holdTimer : Timer
  clipTimer : Timer
  awaited : List PosId
  deriving DecidableEq, Repr

/-- The chime record (R186). -/
structure ChimeRecord where
  tag : Byte
  cls : CallClass
  zones : List ZoneId
  deriving DecidableEq, Repr

/-- A PA command (R187). -/
inductive PaCommand
  | play (clip level : Nat)
  | stop
  deriving DecidableEq, Repr

/-- A PA node record (R187). -/
structure PaNode where
  waiting : Option PaCommand
  /-- The command carried by the burst in flight. -/
  carried : Option PaCommand
  deriving DecidableEq, Repr

structure SignChar where
  code : BitVec 7
  colour : BitVec 3
  flash : Bool
  deriving DecidableEq, Repr

/-- A sign block: its raster colour and its 48 characters, row 0 first (R192). -/
structure SignBlock where
  raster : BitVec 3
  chars : Vector SignChar 48
  deriving DecidableEq, Repr

inductive TransferStatus
  | stopped | running | ended | gaveUp
  deriving DecidableEq, Repr

/-- A sign transfer record (R193). -/
structure SignTransfer where
  status : TransferStatus
  /-- The block being sent, or blank. -/
  target : Option BlockId
  /-- The next character to send; absent while the header is due. -/
  next : Option (Fin 48)
  rasterOnly : Bool
  errors : Nat
  /-- The word of this transfer that the burst in flight carries. -/
  carried : Option CommandWord
  /-- A word to be given again after an abandoned burst. -/
  again : Option CommandWord
  /-- Told not present, and not told present since (R191). -/
  away : Bool
  deriving DecidableEq, Repr

structure CallUnit where
  /-- In order of acceptance. -/
  queue : List Call
  arrival : Word
  presenting : Vector (Option Presentation) 8
  chime : Option ChimeRecord
  paNodes : Vector PaNode 64
  blocks : Vector SignBlock 8
  /-- Each zone's display target: a block, or blank. -/
  targets : Vector (Option BlockId) 8
  transfers : Vector SignTransfer 64
  deriving DecidableEq, Repr

/-! ## The whole part -/

structure State where
  trunk : Trunk
  unit : RequestUnit
  branches : Vector Branch 4
  positions : Vector Position 64
  slots : Vector Slot 64
  pins : Vector Pin 32
  account : Account
  channels : Vector Channel 12
  chimes : Vector ChimeCfg 8
  player : Player
  zones : Vector Zone 8
  doors : Vector Door 24
  /-- Doors of each zone in the warning set (R149). -/
  warnings : Vector Nat 8
  ramps : Vector Ramp 2
  permits : Vector PermitEntry 16
  calls : CallUnit
  /-- The commands that wait, first in first out. -/
  pending : List Instr
  /-- The model's own: how many free values have been drawn (log entry 1). -/
  freeSeq : Nat
  deriving DecidableEq, Repr

/-! ## Hard-reset values -/

/-- R28. -/
def JunctionCfg.reset : JunctionCfg := ⟨200, 20, 60, 40⟩

/-- R19, with the silence timer of an active part; the address is log entry 3. -/
def Trunk.reset : Trunk where
  address := 1
  mode := .start
  arrivalMode := .start
  silence := some 200000
  localCycle := none
  cycle := 0
  localCycles := 0
  rejected := false
  downstream := []

/-- R39. -/
def RequestUnit.reset : RequestUnit := ⟨none, false, .reset, [], false⟩

/-- R62. -/
def Branch.reset : Branch where
  cfg := ⟨false, .k125, 0, 0⟩
  state := .disabled
  burst := none
  previous := none
  number := 3
  held := false
  checkRun := 0
  left := none

/-- R43, R62. -/
def Position.reset : Position where
  cfg := ⟨false, false, .general, none, .idle, 0⟩
  presence := .unknown
  missRun := 0
  pendingWord := none
  lastWord := none
  lastReply := none

/-- R64, R75. -/
def Slot.reset : Slot := ⟨⟨false, 0, none, false⟩, none, false, none⟩

/-- R76. -/
def PinCfg.reset : PinCfg := ⟨.unused, .activeHigh, 0, 0, false, false⟩

/-- R93; the levels are log entry 2. -/
def Pin.reset : Pin := ⟨.reset, false, false, none, .off⟩

/-- R93. -/
def Account.reset : Account := ⟨[], [], 0⟩

/-- R95. -/
def ChannelCfg.reset : ChannelCfg := ⟨.none, .micro, 0, 0⟩

/-- R113. -/
def Channel.reset : Channel := ⟨.reset, .stopped⟩

/-- R109. -/
def ChimeCfg.reset : ChimeCfg := ⟨1000, 50, 200, 200, 1⟩

/-- R113; the pattern is log entry 4. -/
def Player.reset : Player := ⟨.idle, 0, 0, none⟩

/-- R115. -/
def ZoneCfg.reset : ZoneCfg where
  configured := false
  autoClose := false
  noHold := false
  threshold := 3
  window := 10000
  alarmRaster := 1
  holdTime := 5
  idleBlock := none
  fireClip := none
  fireBlock := none
  evacClip := none
  evacBlock := none
  doorClip := none
  doorBlock := none
  callLevel := 8
  alarmLevel := 15

/-- R131. -/
def Zone.reset : Zone := ⟨.reset, .unused, none, false⟩

/-- R132. -/
def DoorCfg.reset : DoorCfg := ⟨0, .magnet, 10000, 500, 10000, 1, 30, 1, false⟩

/-- R151. -/
def Door.reset : Door := ⟨.reset, .disabled, .record, none, 0, 0, false, false⟩

/-- R154. -/
def RampCfg.reset : RampCfg where
  zone := 0
  units := 16
  travel := 10000
  slowStow := 1000
  slowLand := 1000
  creepDuty := 20
  runDuty := 70
  slowDuty := 30
  valvePeriod := 5000
  unlockTime := 2000
  lockTime := 2000
  minInterval := 200
  stallTime := 1000
  enabled := false

/-- R172; the start direction is log entry 4. -/
def Ramp.reset : Ramp where
  cfg := .reset
  state := .disabled
  reason := .disabled
  cmdDisabled := false
  lastToggle := false
  speed := .creep
  startDir := .lower
  lockWanted := false
  slowMark := false
  grace := none
  timer := none

/-- R173. -/
def PermitEntry.reset : PermitEntry := ⟨false, .rampLower 0, [.cleared]⟩

/-- R195. -/
def SignBlock.reset : SignBlock := ⟨0, Vector.replicate 48 ⟨0, 0, false⟩⟩

/-- R195. -/
def SignTransfer.reset : SignTransfer := ⟨.stopped, none, none, false, 0, none, none, false⟩

/-- R195. -/
def CallUnit.reset : CallUnit where
  queue := []
  arrival := 0
  presenting := Vector.replicate 8 none
  chime := none
  paNodes := Vector.replicate 64 ⟨none, none⟩
  blocks := Vector.replicate 8 .reset
  targets := Vector.replicate 8 none
  transfers := Vector.replicate 64 .reset

/-- The part right after hard reset. -/
def State.reset : State where
  trunk := .reset
  unit := .reset
  branches := Vector.replicate 4 .reset
  positions := Vector.replicate 64 .reset
  slots := Vector.replicate 64 .reset
  pins := Vector.replicate 32 .reset
  account := .reset
  channels := Vector.replicate 12 .reset
  chimes := Vector.replicate 8 .reset
  player := .reset
  zones := Vector.replicate 8 .reset
  doors := Vector.replicate 24 .reset
  warnings := Vector.replicate 8 0
  ramps := Vector.replicate 2 .reset
  permits := Vector.replicate 16 .reset
  calls := .reset
  pending := []
  freeSeq := 0

end Sys2Proof.Machine
end

