-- ==== Sys2Proof/Machine/Ops.lean ====
section
/-! DEFINITION. The named operations over the state's tables, and the views that several blocks read. -/

namespace Sys2Proof.Machine

/-- Replace entry `i` of a table by `f` of it. -/
def upd {α : Type} {n : Nat} (v : Vector α n) (i : Fin n) (f : α → α) : Vector α n := v.set i.val (f v[i.val]) i.isLt

/-- Change every entry of a table. -/
def updAll {α : Type} {n : Nat} (v : Vector α n) (f : α → α) : Vector α n := Vector.ofFn fun i => f v[i.val]

/-- A timer started with a duration in ms. -/
def ms (n : Nat) : Timer := some (n * 1000)

/-- The objects of a kind in ascending order. -/
def each (n : Nat) : List (Fin n) := List.finRange n

namespace State

/-! ### Reading and changing one entry of a table -/

def branch (s : State) (b : BranchId) : Branch := s.branches[b.val]
def position (s : State) (n : PosId) : Position := s.positions[n.val]
def slot (s : State) (i : SlotId) : Slot := s.slots[i.val]
def pin (s : State) (p : PinId) : Pin := s.pins[p.val]
def channel (s : State) (c : ChanId) : Channel := s.channels[c.val]
def chime (s : State) (k : ChimeId) : ChimeCfg := s.chimes[k.val]
def zone (s : State) (z : ZoneId) : Zone := s.zones[z.val]
def door (s : State) (d : DoorId) : Door := s.doors[d.val]
def warning (s : State) (z : ZoneId) : Nat := s.warnings[z.val]
def ramp (s : State) (r : RampId) : Ramp := s.ramps[r.val]
def permit (s : State) (k : PermitId) : PermitEntry := s.permits[k.val]
def presenting (s : State) (z : ZoneId) : Option Presentation := s.calls.presenting[z.val]
def paNode (s : State) (n : PosId) : PaNode := s.calls.paNodes[n.val]
def signBlock (s : State) (k : BlockId) : SignBlock := s.calls.blocks[k.val]
def target (s : State) (z : ZoneId) : Option BlockId := s.calls.targets[z.val]
def transfer (s : State) (n : PosId) : SignTransfer := s.calls.transfers[n.val]

def modTrunk (s : State) (f : Trunk → Trunk) : State := { s with trunk := f s.trunk }
def modUnit (s : State) (f : RequestUnit → RequestUnit) : State := { s with unit := f s.unit }
def modBranch (s : State) (b : BranchId) (f : Branch → Branch) : State := { s with branches := upd s.branches b f }
def modPosition (s : State) (n : PosId) (f : Position → Position) : State := { s with positions := upd s.positions n f }
def modSlot (s : State) (i : SlotId) (f : Slot → Slot) : State := { s with slots := upd s.slots i f }
def modPin (s : State) (p : PinId) (f : Pin → Pin) : State := { s with pins := upd s.pins p f }
def modAccount (s : State) (f : Account → Account) : State := { s with account := f s.account }
def modChannel (s : State) (c : ChanId) (f : Channel → Channel) : State := { s with channels := upd s.channels c f }
def modChime (s : State) (k : ChimeId) (f : ChimeCfg → ChimeCfg) : State := { s with chimes := upd s.chimes k f }
def modPlayer (s : State) (f : Player → Player) : State := { s with player := f s.player }
def modZone (s : State) (z : ZoneId) (f : Zone → Zone) : State := { s with zones := upd s.zones z f }
def modDoor (s : State) (d : DoorId) (f : Door → Door) : State := { s with doors := upd s.doors d f }
def modWarning (s : State) (z : ZoneId) (f : Nat → Nat) : State := { s with warnings := upd s.warnings z f }
def modRamp (s : State) (r : RampId) (f : Ramp → Ramp) : State := { s with ramps := upd s.ramps r f }
def modPermit (s : State) (k : PermitId) (f : PermitEntry → PermitEntry) : State := { s with permits := upd s.permits k f }
def modCalls (s : State) (f : CallUnit → CallUnit) : State := { s with calls := f s.calls }
def modPresenting (s : State) (z : ZoneId) (f : Option Presentation → Option Presentation) : State :=
  s.modCalls fun c => { c with presenting := upd c.presenting z f }
def modPaNode (s : State) (n : PosId) (f : PaNode → PaNode) : State :=
  s.modCalls fun c => { c with paNodes := upd c.paNodes n f }
def modBlock (s : State) (k : BlockId) (f : SignBlock → SignBlock) : State :=
  s.modCalls fun c => { c with blocks := upd c.blocks k f }
def modTarget (s : State) (z : ZoneId) (f : Option BlockId → Option BlockId) : State :=
  s.modCalls fun c => { c with targets := upd c.targets z f }
def modTransfer (s : State) (n : PosId) (f : SignTransfer → SignTransfer) : State :=
  s.modCalls fun c => { c with transfers := upd c.transfers n f }
def modQueue (s : State) (f : List Call → List Call) : State := s.modCalls fun c => { c with queue := f c.queue }
def withPending (s : State) (cs : List Instr) : State := { s with pending := cs }

/-- A value of which nothing is known (log entry 1). -/
def drawFree (s : State) : Word × State := (Config.freeWord s.freeSeq, { s with freeSeq := s.freeSeq + 1 })

/-- An address 1..30 makes the part active (R5). -/
def active (s : State) : Bool := 1 ≤ s.trunk.address.toNat && s.trunk.address.toNat ≤ 30

end State

/-! ### Positions -/

/-- Branch number × 16 + physical position - 1 (2.2). -/
def posIndex (b : BranchId) (p : PlaceId) : PosId := ⟨b.val * 16 + p.val, by omega⟩
def branchOf (n : PosId) : BranchId := ⟨n.val / 16, by omega⟩
def placeOf (n : PosId) : PlaceId := ⟨n.val % 16, by omega⟩

namespace State

/-- The enabled positions of a branch in physical order. -/
def enabledPlaces (s : State) (b : BranchId) : List PlaceId :=
  (each 16).filter fun p => (s.position (posIndex b p)).cfg.enabled

/-- The logical number of a position: its place among the enabled positions, from 1 (R44). -/
def logical (s : State) (n : PosId) : Option Nat :=
  if (s.position n).cfg.enabled then
    some ((s.enabledPlaces (branchOf n)).filter fun p => p ≤ placeOf n).length
  else none

/-- The physical position that holds a logical number (R65). -/
def placeOfLogical (s : State) (b : BranchId) (k : Nat) : Option PlaceId :=
  (each 16).find? fun p => s.logical (posIndex b p) == some k

/-- The enabled positions of a class whose record names the zone. R187 names the enabled PA positions; that "every PA position" of
R189 and "every SIGN position" of R31, R192 and R194 are the enabled ones too is the model's choice (log entry 44). -/
def positionsOf (s : State) (c : NodeClass) (z : ZoneId) : List PosId :=
  (each 64).filter fun n =>
    (s.position n).cfg.enabled && (s.position n).cfg.cls == c && (s.position n).cfg.zone == some z

end State

/-! ### Pins -/

/-- The functions whose pin is an input (R77). -/
def PinFunction.isInput : PinFunction → Bool
  | .generalIn | .doorOpenLimit _ | .doorClosedLimit _ | .doorHoldButton _ | .rampStowLimit _ | .rampLandLimit _
  | .rampLockedLimit _ | .rampEncoder _ | .detector _ | .callPoint _ => true
  | _ => false

/-- The functions whose pin is an output (R77). -/
def PinFunction.isOutput (f : PinFunction) : Bool := !f.isInput && f != .unused

/-- An electrical level as an active or inactive state under a polarity. -/
def Polarity.apply (p : Polarity) (level : Bool) : Bool :=
  match p with
  | .activeHigh => level
  | .activeLow => !level

/-- An input pin is active when its filtered level, after its polarity, is asserted (introduction). -/
def Pin.active (p : Pin) : Bool := p.cfg.function.isInput && p.cfg.polarity.apply p.filtered

namespace State

/-- The pin that holds a function with an index; at most one does (R77). -/
def pinOf (s : State) (f : PinFunction) : Option PinId := (each 32).find? fun p => (s.pin p).cfg.function == f

/-- The filtered state of the input that holds a function; inactive where no pin does. -/
def inputActive (s : State) (f : PinFunction) : Bool :=
  match s.pinOf f with
  | some p => (s.pin p).active
  | none => false

/-- The closed limit of a door. -/
def closedLimit (s : State) (d : DoorId) : Bool := s.inputActive (.doorClosedLimit d)

/-- The open limit of a door; without an open-limit pin it is the opposite of the closed limit (R134). -/
def openLimit (s : State) (d : DoorId) : Bool :=
  match s.pinOf (.doorOpenLimit d) with
  | some p => (s.pin p).active
  | none => !s.closedLimit d

def stowLimit (s : State) (r : RampId) : Bool := s.inputActive (.rampStowLimit r)
def landLimit (s : State) (r : RampId) : Bool := s.inputActive (.rampLandLimit r)
def lockedLimit (s : State) (r : RampId) : Bool := s.inputActive (.rampLockedLimit r)

/-- The zone is in ALARM or EVACUATE. -/
def alarmed (s : State) (z : ZoneId) : Bool :=
  match (s.zone z).state with
  | .alarm | .evacuate => true
  | _ => false

/-- A source of the zone is active (R123). -/
def sourceActive (s : State) (z : ZoneId) : Bool :=
  s.inputActive (.detector z) || s.inputActive (.callPoint z) ||
    (s.positionsOf .sensor z).any fun n =>
      (s.position n).presence == .present &&
        match (s.position n).lastReply with
        | some w => w.getLsbD 8 || w.getLsbD 9
        | none => false

/-- The channel, or the master of the pair, that a function is bound to (R96). -/
def chanOf (s : State) (b : Binding) : Option ChanId := (each 12).find? fun c => (s.channel c).cfg.binding == b

/-- The running count of an event-count function, 0 where no channel is bound. -/
def countOf (s : State) (b : Binding) : Nat :=
  match s.chanOf b with
  | some c => match (s.channel c).run with
    | .counting k => k.count
    | _ => 0
  | none => 0

end State

/-- The claimant number of an output pin (R34). -/
def pinClaimant (p : PinId) : Claimant := ⟨p.val, by omega⟩

/-- The claimant number of a ramp's drive claim (R34). -/
def driveClaimant (r : RampId) : Claimant := ⟨32 + r.val, by omega⟩

/-- The pin of a claimant, where it is one. -/
def claimantPin (c : Claimant) : Option PinId := if h : c.val < 32 then some ⟨c.val, h⟩ else none

/-- The ramp of a claimant, where it is one. -/
def claimantRamp (c : Claimant) : Option RampId := if 32 ≤ c.val then some ⟨c.val - 32, by omega⟩ else none

/-- AWAITING_LOAD, UNLOCKING, LOWERING and RAISING are the driven states (R153). -/
def RampState.driven : RampState → Bool
  | .awaitingLoad | .unlocking | .lowering | .raising => true
  | _ => false

/-- The driven states and LOCKING are the active states (R153). -/
def RampState.isActive (x : RampState) : Bool := x.driven || x == .locking

/-- STOWED, LANDED and DISABLED are the quiet states (R153). -/
def RampState.quiet : RampState → Bool
  | .stowed | .landed | .disabled => true
  | _ => false

/-- WARNING, RELEASING, CLOSING and CREW_HOLD are the warning set (R149). -/
def DoorState.warns : DoorState → Bool
  | .warning | .releasing | .closing | .crewHold => true
  | _ => false

/-- A ramp's current direction: LOWER in UNLOCKING and LOWERING, RAISE in RAISING and LOCKING, the start direction in
AWAITING_LOAD (R159, R178). -/
def Ramp.direction (x : Ramp) : Direction :=
  match x.state with
  | .unlocking | .lowering => .lower
  | .raising | .locking => .raise
  | _ => x.startDir

end Sys2Proof.Machine
end

