-- ==== Sys2Proof/Machine/Flags.lean ====
section
/-! DEFINITION. The event queue with its overflow flag (2.8), and the status record's flags and counts (R12). -/

namespace Sys2Proof.Machine

/-- A detail of two parts: the first in bits 15..8, the second in bits 7..0 (12.2). -/
def twoPart (a b : Nat) : Word := BitVec.ofNat 16 (a * 256 + b)

/-- How many events the queue holds at most (R36). -/
def eventLimit : Nat := 32

namespace State

/-- Post an event with the stamp of the junction cycle count; a full queue discards it and sets the overflow flag (R36). -/
def post (s : State) (kind : EventKind) (subject : Nat) (detail : Word) : State :=
  s.modUnit fun u =>
    if u.events.length < eventLimit then
      { u with events := u.events ++ [⟨kind, BitVec.ofNat 8 subject, detail, s.trunk.cycle⟩] }
    else { u with overflow := true }

/-- Remove the oldest `n` events; the overflow flag clears with the queue empty (R37). -/
def drainEvents (s : State) (n : Nat) : State :=
  s.modUnit fun u =>
    { u with events := u.events.drop n, overflow := if (u.events.drop n).isEmpty then false else u.overflow }

def postZone (s : State) (z : ZoneId) (cause : ZoneCause) : State :=
  s.post .zoneState (z.val + 1) (twoPart (s.zone z).state.ctorIdx cause.ctorIdx)

def postDoor (s : State) (d : DoorId) : State :=
  s.post .doorState (d.val + 1) (twoPart (s.door d).state.ctorIdx (s.door d).reason.ctorIdx)

def postRamp (s : State) (r : RampId) : State :=
  s.post .rampState (r.val + 1) (twoPart (s.ramp r).state.ctorIdx (s.ramp r).reason.ctorIdx)

/-- Zones in ALARM or EVACUATE (R12). -/
def zonesAlarmed (s : State) : Nat := ((each 8).filter fun z => s.alarmed z).length

end State

/-- A flag as a bit of weight 2^k. -/
def flagBit (b : Bool) (k : Nat) : Nat := if b then 2 ^ k else 0

/-- The status record of a reply segment (R12, 12.1). -/
def State.statusRecord (s : State) : Word :=
  BitVec.ofNat 16 (s.trunk.arrivalMode.ctorIdx * 2 ^ 14 + flagBit s.unit.lock 13 + flagBit s.trunk.rejected 12
    + flagBit s.unit.overflow 11 + flagBit (!s.account.pending.isEmpty) 10 + s.unit.events.length * 16 + s.zonesAlarmed)

/-- The two words of a ramp status record (R13, 12.1). -/
def State.rampStatus (s : State) (r : RampId) : List Word :=
  [BitVec.ofNat 16 ((s.ramp r).state.ctorIdx * 4096 + (s.ramp r).reason.ctorIdx * 256 + flagBit (s.ramp r).lastToggle 0),
   BitVec.ofNat 16 (s.countOf (.rampEncoder r))]

end Sys2Proof.Machine
end

