-- ==== Sys2Proof/Machine/Load.lean ====
section
/-! DEFINITION. The load account (5.4): its two lists, the grant pass and shedding; and the output levels (5.3). -/

namespace Sys2Proof.Machine

/-- The sum of the units of a list of claims. -/
def unitsOf (l : List Claim) : Nat := (l.map Claim.units).sum

/-- FIRE, then MOTION, then HOLD, then SERVICE; within a class by age (R86). -/
def Claim.before (a b : Claim) : Bool :=
  a.cls.ctorIdx < b.cls.ctorIdx || (a.cls.ctorIdx == b.cls.ctorIdx && a.age < b.age)

/-- A claim joins the pending list at the place its class and age give it (R86). -/
def insertClaim (c : Claim) : List Claim → List Claim
  | [] => [c]
  | d :: ds => if c.before d then c :: d :: ds else d :: insertClaim c ds

/-- The newest by age of the claims that may be shed (R88). -/
def newestOf (can : Claim → Bool) : List Claim → Option Claim
  | [] => none
  | c :: cs =>
    match newestOf can cs with
    | some b => if can c && b.age < c.age then some c else some b
    | none => if can c then some c else none

def without (c : Claimant) (l : List Claim) : List Claim := l.filter fun x => x.claimant != c

/-- What a grant pass did, in order. -/
inductive LoadNotice
  | granted (c : Claimant) (cls : ClaimClass) (wasShed : Bool)
  | shed (c : Claimant) (cause : ClaimClass)
  deriving DecidableEq, Repr

/-- FIRE and MOTION heads shed service claims (R87). -/
def ClaimClass.sheds : ClaimClass → Bool
  | .fire | .motion => true
  | _ => false

namespace Account

/-- The claim of a claimant, in whichever list. -/
def find (a : Account) (c : Claimant) : Option Claim := (a.granted ++ a.pending).find? fun x => x.claimant == c

def isGranted (a : Account) (c : Claimant) : Bool := a.granted.any fun x => x.claimant == c
def isPending (a : Account) (c : Claimant) : Bool := a.pending.any fun x => x.claimant == c

/-- Take a claimant's claim out of whichever list holds it (R90). -/
def drop (a : Account) (c : Claimant) : Account :=
  { a with granted := without c a.granted, pending := without c a.pending }

/-- A new claim takes its age and joins the pending list (R89). -/
def add (a : Account) (c : Claimant) (cls : ClaimClass) (units : Nat) : Account :=
  { a with pending := insertClaim ⟨c, cls, units, a.nextAge, false⟩ a.pending, nextAge := a.nextAge + 1 }

/-- The grant pass (R87, R88), one grant or one shedding a round. -/
def pass (budget : Nat) (can : Claim → Bool) : Nat → Account → Account × List LoadNotice
  | 0, a => (a, [])
  | n + 1, a =>
    match a.pending with
    | [] => (a, [])
    | h :: rest =>
      if unitsOf a.granted + h.units ≤ budget then
        let r := pass budget can n { a with granted := a.granted ++ [{ h with shed := false }], pending := rest }
        (r.1, .granted h.claimant h.cls h.shed :: r.2)
      else if h.cls.sheds then
        match newestOf can a.granted with
        | none => (a, [])
        | some c =>
          let r := pass budget can n
            { a with granted := without c.claimant a.granted, pending := insertClaim { c with shed := true } (h :: rest) }
          (r.1, .shed c.claimant h.cls :: r.2)
      else (a, [])

/-- Rounds enough for a pass: each shedding takes a claim off the granted list before any service claim is granted, and
each grant takes one off the pending list. -/
def rounds (a : Account) : Nat := 2 * a.granted.length + a.pending.length + 1

end Account

namespace State

/-- A granted SERVICE claim of a sheddable GENERAL_OUT pin, or of a CHIME pin, may be shed (R88). -/
def canShed (s : State) (c : Claim) : Bool :=
  c.cls == .service &&
    match claimantPin c.claimant with
    | some p => match (s.pin p).cfg.function with
      | .generalOut => (s.pin p).cfg.sheddable
      | .chime _ => true
      | _ => false
    | none => false

/-- The event of a pass's notice: LOAD_RESTORED for a granted claim that had been shed, LOAD_SHED (R87, R88). -/
def postLoad (s : State) : LoadNotice → State
  | .granted c cls wasShed => if wasShed then s.post .loadRestored c.val (BitVec.ofNat 16 cls.ctorIdx) else s
  | .shed c cause => s.post .loadShed c.val (BitVec.ofNat 16 cause.ctorIdx)

/-- Settle the account by a grant pass; the claimants granted, in order, are still to be told (log entry 16). -/
def settle (s : State) : State × List Claimant :=
  let r := Account.pass s.unit.junction.loadBudget s.canShed s.account.rounds s.account
  (r.2.foldl postLoad (s.modAccount fun _ => r.1),
   r.2.filterMap fun n => match n with
    | .granted c _ _ => some c
    | .shed _ _ => none)

/-- The claimant number of the pin that holds a function. -/
def claimantOf (s : State) (f : PinFunction) : Option Claimant := (s.pinOf f).map pinClaimant

/-- The claim of the pin that holds a function is granted. -/
def functionGranted (s : State) (f : PinFunction) : Bool :=
  match s.claimantOf f with
  | some c => s.account.isGranted c
  | none => false

/-- The claim of the pin that holds a function is pending. -/
def functionPending (s : State) (f : PinFunction) : Bool :=
  match s.claimantOf f with
  | some c => s.account.isPending c
  | none => false

end State

/-- NONE, PENDING or GRANTED (R33). -/
inductive Standing
  | none | pending | granted
  deriving DecidableEq, Repr

def State.standing (s : State) (c : Claimant) : Standing :=
  if s.account.isGranted c then .granted else if s.account.isPending c then .pending else .none

/-! ### Output levels (R82, R83) -/

/-- What an output pin drives. -/
inductive OutputLevel
  | notDriven
  | inactive
  | active
  /-- Following the pair of a binding. -/
  | follows (b : Binding)
  deriving DecidableEq, Repr

namespace State

/-- The direction the Ramp Unit names to the valves (R83, R164). -/
def valveDirection (s : State) (r : RampId) : Option Direction :=
  match (s.ramp r).state with
  | .lowering => some .lower
  | .raising => some .raise
  | _ => none

/-- A valve pin follows the pair while its direction is named and the drive claim is granted (R83). -/
def valveLevel (s : State) (r : RampId) (dir : Direction) : OutputLevel :=
  if s.valveDirection r == some dir && s.account.isGranted (driveClaimant r) then .follows (.rampValve r) else .inactive

/-- The output level of a pin. -/
def outputLevel (s : State) (p : PinId) : OutputLevel :=
  let granted := s.account.isGranted (pinClaimant p)
  match (s.pin p).cfg.function with
  | .generalOut =>
    if granted then
      match (s.pin p).setting with
      | .off => .inactive
      | .on => .active
      | .flash1 => .follows .flash1
      | .flash2 => .follows .flash2
    else .inactive
  | .doorHoldback _ | .doorRelease _ | .rampBeacon _ | .zoneBeacon _ => if granted then .active else .inactive
  | .chime _ => if granted then .follows .chime else .inactive
  | .rampLowerValve r => s.valveLevel r .lower
  | .rampRaiseValve r => s.valveLevel r .raise
  | .rampLock r =>
    if s.account.isPending (driveClaimant r) then .inactive
    else if (s.ramp r).lockWanted then .active else .inactive
  | _ => .notDriven

/-- The output of the pair bound to a function is active; inactive where no pair is bound or running (R82). -/
def pairActive (s : State) (b : Binding) : Bool :=
  match s.chanOf b with
  | some c => match (s.channel c).run with
    | .pwm p => p.output
    | _ => false
  | none => false

/-- The pin is driven to its asserted level. -/
def driven (s : State) (p : PinId) : Bool :=
  match s.outputLevel p with
  | .active => true
  | .follows b => s.pairActive b
  | _ => false

/-- The electrical level an output pin drives, none where it is not driven (R82). -/
def electrical (s : State) (p : PinId) : Option Bool :=
  match s.outputLevel p with
  | .notDriven => none
  | _ => some ((s.pin p).cfg.polarity.apply (s.driven p))

end State

end Sys2Proof.Machine
end

