-- ==== Sys2Proof/Machine/Channels.lean ====
section
/-! DEFINITION. The Channel Pool's acts on its channels (6.2 to 6.5). -/

namespace Sys2Proof.Machine

/-- RAMP_VALVE, CHIME and the flash functions bind a pair (R96). -/
def Binding.isPair : Binding → Bool
  | .rampValve _ | .chime | .flash1 | .flash2 => true
  | _ => false

/-- The lower clamp of a period: a P of 0 is taken as 1 (R99). -/
def period1 (p : Nat) : Nat := if p = 0 then 1 else p

/-! ### Pairs (R100 to R102) -/

/-- A pair started with P and D: both in force, count 0, output by D (R99, R100). -/
def PwmRun.start (p d : Nat) : PwmRun := ⟨0, 0, period1 p, d, none, none, 0 < d⟩

/-- A period start: the buffered values come into force and the output takes the new period's level (R100, R101). -/
def PwmRun.periodStart (x : PwmRun) : PwmRun :=
  PwmRun.start (x.bufPeriod.getD x.period) (x.bufDuty.getD x.duty)

/-- The count reaches D within the period: the output goes inactive (R100); with D of P or more it never does. -/
def PwmRun.dutyEnd (x : PwmRun) : PwmRun :=
  if x.output && x.duty < x.period then { x with count := x.duty, sub := 0, output := false } else x

/-! ### Event counting (R103 to R105) -/

/-- The compare is reached when the count stands at or beyond it in the counting sense (R104). -/
def CountRun.reached (x : CountRun) : Bool := x.armed && (if x.up then x.compare ≤ x.count else x.count ≤ x.compare)

/-- The compare test: when reached, the mark clears, the capture takes the count, and the notice is sent (R104). -/
def CountRun.test (x : CountRun) : CountRun × Bool :=
  if x.reached then ({ x with armed := false, capture := x.count }, true) else (x, false)

/-- One active edge of a RAMP_ENCODER channel: within 0..65535 in its direction (R103). -/
def CountRun.encoderEdge (x : CountRun) : CountRun :=
  if x.up then (if x.count < 65535 then { x with count := x.count + 1 } else x)
  else { x with count := x.count - 1 }

/-- One active edge of a ZONE_DETECTOR channel, up to 16 777 215 (R103). -/
def CountRun.detectorEdge (x : CountRun) : CountRun :=
  if x.count < 16777215 then { x with count := x.count + 1 } else x

/-- A channel just bound to an event-count function (R97). -/
def CountRun.fresh : CountRun := ⟨0, true, 0, false, 0⟩

/-! ### Width capture (R106, R107) -/

/-- One active edge: the capture, and the interval if it is an overspeed (R106). -/
def CaptureRun.edge (x : CaptureRun) : CaptureRun × Bool :=
  ({ x with capture := x.count, count := 0, edgeSeen := true, stalled := false },
   x.edgeSeen && x.count < x.minInterval)

/-- A started capture (R99). -/
def CaptureRun.start (minInterval stallCount : Nat) : CaptureRun := ⟨0, 0, minInterval, stallCount, false, false⟩

namespace State

/-- Change what the channel bound to a function is doing; nothing where none is bound (R99). -/
def modRun (s : State) (b : Binding) (f : ChannelRun → ChannelRun) : State :=
  match s.chanOf b with
  | some c => s.modChannel c fun x => { x with run := f x.run }
  | none => s

/-- Start pair (R99). -/
def startPair (s : State) (b : Binding) (p d : Nat) : State := s.modRun b fun _ => .pwm (.start p d)

/-- Load duty into a running pair (R101). -/
def loadDuty (s : State) (b : Binding) (d : Nat) : State :=
  s.modRun b fun r => match r with
    | .pwm x => .pwm { x with bufDuty := some d }
    | _ => r

/-- Stop pair, stop capture (R99, R102). -/
def stopChannel (s : State) (b : Binding) : State := s.modRun b fun _ => .stopped

/-- Start capture (R99, R106). -/
def startCapture (s : State) (b : Binding) (minInterval stallCount : Nat) : State :=
  s.modRun b fun _ => .capturing (.start minInterval stallCount)

/-- Act on an event-count channel and test its compare; true when the compare is reached (R104). -/
def actCount (s : State) (b : Binding) (f : CountRun → CountRun) : State × Bool :=
  match s.chanOf b with
  | some c =>
    match (s.channel c).run with
    | .counting x => (s.modChannel c fun y => { y with run := .counting (f x).test.1 }, (f x).test.2)
    | _ => (s, false)
  | none => (s, false)

/-- Set direction (R99). -/
def setDirection (s : State) (b : Binding) (up : Bool) : State × Bool := s.actCount b fun x => { x with up := up }

/-- Set count (R105). -/
def setCount (s : State) (b : Binding) (n : Nat) : State × Bool := s.actCount b fun x => { x with count := n }

/-- Arm compare (R104). -/
def armCompare (s : State) (b : Binding) (v : Nat) : State × Bool :=
  s.actCount b fun x => { x with compare := v, armed := true }

/-- Disarm compare (R104). -/
def disarm (s : State) (b : Binding) : State := (s.actCount b fun x => { x with armed := false }).1

end State

end Sys2Proof.Machine
end

