-- ==== Sys2Proof/Machine/Permits.lean ====
section
/-! DEFINITION. Judging permit entries (chapter 10). -/

namespace Sys2Proof.Machine

/-- What a change notice or a condition names (R174, R177). -/
inductive Subject
  | door (d : DoorId)
  | ramp (r : RampId)
  | zone (z : ZoneId)
  | pin (p : PinId)
  | node (n : PosId)
  deriving DecidableEq, Repr

/-- The subject a condition names. -/
def Condition.subject : Condition → Option Subject
  | .cleared => none
  | .door d _ => some (.door d)
  | .ramp r _ => some (.ramp r)
  | .zone z _ => some (.zone z)
  | .pin p _ => some (.pin p)
  | .node n _ _ => some (.node n)

namespace State

/-- A node's input, where it exists: the position is PRESENT, has a last reply, and that reply carries the input (R174). -/
def nodeInput (s : State) (n : PosId) (k : Fin 16) : Option Bool :=
  if (s.position n).presence == .present then
    match (s.position n).lastReply, (s.position n).cfg.cls with
    | some w, .general => some (w.getLsbD k.val)
    | some w, .sensor => if k.val < 8 then some (w.getLsbD k.val) else none
    | _, _ => none
  else none

/-- A condition holds (R174). -/
def holds (s : State) : Condition → Bool
  | .cleared => false
  | .door d states => states.getLsbD (s.door d).state.ctorIdx
  | .ramp r states => states.getLsbD (s.ramp r).state.ctorIdx
  | .zone z states => states.getLsbD (s.zone z).state.ctorIdx
  | .pin p active => (s.pin p).cfg.function.isInput && (s.pin p).active == active
  | .node n k active => s.nodeInput n k == some active

/-- The entry in use that guards an action (R173). -/
def guardOf (s : State) (a : PermitAction) : Option PermitId :=
  (each 16).find? fun k => (s.permit k).used && (s.permit k).action == a

/-- Every condition in use of an entry holds (R175). -/
def satisfied (s : State) (k : PermitId) : Bool := (s.permit k).conditions.all s.holds

/-- The guarding entry that is not satisfied; none when the action is permitted (R175). -/
def forbids (s : State) (a : PermitAction) : Option PermitId :=
  match s.guardOf a with
  | some k => if s.satisfied k then none else some k
  | none => none

/-- The entry names the subject in a condition in use. -/
def namesSubject (s : State) (k : PermitId) (x : Subject) : Bool :=
  (s.permit k).conditions.any fun c => c.subject == some x

/-- The action of a ramp's motion in a direction. -/
def rampAction (r : RampId) : Direction → PermitAction
  | .lower => .rampLower r
  | .raise => .rampRaise r

end State

end Sys2Proof.Machine
end

