-- ==== Sys2Proof/Machine/Interlock.lean ====
section
/-! DEFINITION. Claims, withdrawals, change notices, and the ramp motion they reach (5.4, 9.3 to 9.5, 10.4).

A grant tells a claimant, which may change a ramp's or a door's state; the change reaches the Permit Table, which may halt
a ramp; the halt withdraws a claim, and the units freed may be granted in turn. The operations here take what a signal
leads to as the argument `k`, and `react` closes the circle (log entry 16). -/

namespace Sys2Proof.Machine

/-- What one block tells another within an operation. -/
inductive Signal
  /-- A claimant is told its claim is granted (R87). -/
  | granted (c : Claimant)
  /-- The Permit Table is told that a subject changed (R177). -/
  | changed (x : Subject)
  deriving DecidableEq, Repr

namespace State

/-- Tell the claimants of a settled account. -/
def tell (k : Signal → State → State) (r : State × List Claimant) : State := r.2.foldl (fun s c => k (.granted c) s) r.1

/-- Withdraw a claimant's claim and run the grant pass; nothing when it has none (R90). -/
def withdrawWith (k : Signal → State → State) (c : Claimant) (s : State) : State :=
  if (s.account.find c).isSome then tell k (s.modAccount (·.drop c)).settle else s

/-- Make a claim that does not stand yet: it joins the pending list, the grant pass runs, and LOAD_WAIT is posted if it is
still pending (R89). -/
def newClaimWith (k : Signal → State → State) (c : Claimant) (cls : ClaimClass) (units : Nat) (s : State) : State :=
  let r := (s.modAccount fun a => a.add c cls units).settle
  tell k (if r.1.account.isPending c then (r.1.post .loadWait c.val (twoPart cls.ctorIdx units), r.2) else r)

/-- Make a claim; one that stands with the same class is left as it is, one of another class is replaced (R85). -/
def claimWith (k : Signal → State → State) (c : Claimant) (cls : ClaimClass) (units : Nat) (s : State) : State :=
  match s.account.find c with
  | some old => if old.cls == cls then s else newClaimWith k c cls units (withdrawWith k c s)
  | none => newClaimWith k c cls units s

/-- Withdraw the claim of the pin that holds a function, where a pin does. -/
def withdrawPinWith (k : Signal → State → State) (f : PinFunction) (s : State) : State :=
  match s.claimantOf f with
  | some c => withdrawWith k c s
  | none => s

/-! ### Ramp motion -/

/-- The duty of a travelling ramp in percent (R164). -/
def dutyPercent (x : Ramp) : Nat :=
  let d := match x.speed with
    | .creep => x.cfg.creepDuty
    | .normal => x.cfg.runDuty
  if x.slowMark then min d x.cfg.slowDuty else d

/-- D = P × duty ÷ 100, rounded down (R164). -/
def dutyCounts (x : Ramp) : Nat := x.cfg.valvePeriod * dutyPercent x / 100

/-- The slow point is reached: the slow mark is set and the duty loaded (R164). -/
def slowPoint (r : RampId) (s : State) : State :=
  let s := s.modRamp r fun x => { x with slowMark := true }
  s.loadDuty (.rampValve r) (dutyCounts (s.ramp r))

/-- On leaving LOWERING or RAISING: the pair and the capture stop and the compare is disarmed (R164). -/
def stopTravel (r : RampId) (s : State) : State :=
  match (s.ramp r).state with
  | .lowering | .raising =>
    ((s.stopChannel (.rampValve r)).stopChannel (.rampSpeed r)).disarm (.rampEncoder r)
  | _ => s

/-- The motion ends and the ramp's state, reason and timers are those of a halt (R168, R169). -/
def haltFields (r : RampId) (dest : RampState) (why : RampReason) (s : State) : State :=
  (stopTravel r s).modRamp r fun x => { x with state := dest, reason := why, grace := none, timer := none }

/-- A ramp goes HELD or enters FAULT (R168, R169); `dropped` is the permit entry of a permit halt. -/
def haltWith (k : Signal → State → State) (r : RampId) (dest : RampState) (why : RampReason) (dropped : Option PermitId)
    (s : State) : State :=
  let s := (withdrawWith k (driveClaimant r) (haltFields r dest why s)).postRamp r
  let s := match dropped with
    | some e => s.post .permitDropped (r.val + 1) (BitVec.ofNat 16 e.val)
    | none => s
  k (.changed (.ramp r)) s

/-- A ramp comes to rest in LANDED or STOWED: its claims are withdrawn and its timers stopped (R166, R167, R170). -/
def restWith (k : Signal → State → State) (r : RampId) (dest : RampState) (s : State) : State :=
  let s := stopTravel r s
  let s := s.modRamp r fun x => { x with state := dest, reason := .limit, grace := none, timer := none }
  let s := withdrawPinWith k (.rampBeacon r) (withdrawWith k (driveClaimant r) s)
  k (.changed (.ramp r)) (s.postRamp r)

/-- Enter LOWERING or RAISING (R164, R165); a land limit already active on entry to LOWERING ends the travel (log entry 20). -/
def travelWith (k : Signal → State → State) (r : RampId) (dir : Direction) (s : State) : State :=
  let lowering := dir == .lower
  let s := s.modRamp r fun x =>
    { x with state := if lowering then .lowering else .raising, reason := .none, timer := none, lockWanted := true,
             slowMark := false }
  let x := s.ramp r
  let s := (s.setDirection (.rampEncoder r) lowering).1
  let s := s.startPair (.rampValve r) x.cfg.valvePeriod (dutyCounts x)
  let s := s.startCapture (.rampSpeed r) x.cfg.minInterval (x.cfg.stallTime * 1000)
  let a := s.armCompare (.rampEncoder r) (if lowering then x.cfg.travel - x.cfg.slowLand else x.cfg.slowStow)
  let s := if a.2 then slowPoint r a.1 else a.1
  let s := k (.changed (.ramp r)) (s.postRamp r)
  if (s.ramp r).state == .lowering && s.landLimit r then restWith k r .landed s else s

/-- Enter LOCKING (R166); a locked limit already active on entry ends it (log entry 20). -/
def lockingWith (k : Signal → State → State) (r : RampId) (s : State) : State :=
  let s := stopTravel r s
  let s := s.modRamp r fun x =>
    { x with state := .locking, reason := .limit, lockWanted := false, timer := ms x.cfg.lockTime }
  let s := k (.changed (.ramp r)) (s.postRamp r)
  if (s.ramp r).state == .locking && s.lockedLimit r then restWith k r .stowed s else s

/-- Enter UNLOCKING (R163). -/
def unlockingWith (k : Signal → State → State) (r : RampId) (s : State) : State :=
  let s := s.modRamp r fun x =>
    { x with state := .unlocking, reason := .none, lockWanted := true, timer := ms x.cfg.unlockTime }
  k (.changed (.ramp r)) (s.postRamp r)

/-- A ramp takes the grant of its drive claim in AWAITING_LOAD (R162). -/
def driveGrantedWith (k : Signal → State → State) (r : RampId) (s : State) : State :=
  if (s.ramp r).state == .awaitingLoad then
    match (s.ramp r).startDir with
    | .lower => if s.lockedLimit r then unlockingWith k r s else travelWith k r .lower s
    | .raise => if s.stowLimit r then lockingWith k r s else travelWith k r .raise s
  else s

/-! ### Door grants -/

/-- A MAGNET door in REOPENING with its open limit active takes the grant of its holdback (R147). -/
def holdbackGrantedWith (k : Signal → State → State) (d : DoorId) (s : State) : State :=
  if (s.door d).state == .reopening && s.openLimit d then
    let s := s.modDoor d fun x => { x with state := .opened, reason := .limit, timer := none }
    k (.changed (.door d)) (s.postDoor d)
  else s

/-- The grant of a release claim starts the pulse (R141). -/
def releaseGranted (d : DoorId) (s : State) : State :=
  s.modDoor d fun x =>
    if x.state == .releasing && x.timer.isNone then { x with timer := ms x.cfg.pulse } else x

/-- A claimant takes the grant of its claim, if it still stands granted (R87). -/
def grantedWith (k : Signal → State → State) (c : Claimant) (s : State) : State :=
  if s.account.isGranted c then
    match claimantRamp c, claimantPin c with
    | some r, _ => driveGrantedWith k r s
    | none, some p =>
      match (s.pin p).cfg.function with
      | .doorHoldback d => if (s.door d).cfg.kind == .magnet then holdbackGrantedWith k d s else s
      | .doorRelease d => if (s.door d).cfg.kind == .latch then releaseGranted d s else s
      | _ => s
    | none, none => s
  else s

/-! ### Re-evaluation of driven ramps (R178) -/

/-- The entry that guards a driven ramp's current direction. -/
def driveGuard (s : State) (r : RampId) : Option PermitId :=
  if (s.ramp r).state.driven then s.guardOf (rampAction r (s.ramp r).direction) else none

/-- Judge one driven ramp's entry at once; the ramp halts if it is not satisfied (R178, R179). -/
def judgeWith (k : Signal → State → State) (r : RampId) (s : State) : State :=
  match s.driveGuard r with
  | some e => if s.satisfied e then s else haltWith k r .held .permit (some e) s
  | none => s

/-- Judge one driven ramp on a notice, if its entry names the subject. -/
def judgeOnWith (k : Signal → State → State) (x : Subject) (s : State) (r : RampId) : State :=
  match s.driveGuard r with
  | some e => if s.namesSubject e x then judgeWith k r s else s
  | none => s

/-- What a signal leads to. Every second round at the least halts a ramp or brings it to rest, only a motion word drives it
again, and there are two ramps: with no ramp driven a notice changes nothing, so the rounds suffice. -/
def react : Nat → Signal → State → State
  | 0, _, s => s
  | n + 1, .granted c, s => grantedWith (react n) c s
  | n + 1, .changed x, s => (each 2).foldl (judgeOnWith (react n) x) s

/-- The rounds of `react` that the blocks use. -/
def signal : Signal → State → State := react 8

/-- A change notice to the Permit Table (R177). -/
def changed (x : Subject) (s : State) : State := signal (.changed x) s

def withdraw (c : Claimant) (s : State) : State := withdrawWith signal c s
def withdrawPin (f : PinFunction) (s : State) : State := withdrawPinWith signal f s

/-- Claim for the pin that holds a function with its record's units; nothing where no pin holds it. -/
def claimPinWith (k : Signal → State → State) (f : PinFunction) (cls : ClaimClass) (s : State) : State :=
  match s.pinOf f with
  | some p => claimWith k (pinClaimant p) cls (s.pin p).cfg.units s
  | none => s

def claimPin (f : PinFunction) (cls : ClaimClass) (s : State) : State := claimPinWith signal f cls s

/-- Signals as usual, but for the grant of a function's own claim, which the operation that makes the claim takes itself. -/
def signalBut (f : PinFunction) : Signal → State → State
  | .granted c, s => if s.claimantOf f == some c then s else signal (.granted c) s
  | .changed x, s => changed x s

end State

end Sys2Proof.Machine
end

