-- ==== Sys2Proof/Machine/Signs.lean ====
section
/-! DEFINITION. Display targets, sign transfers and PA node records (11.4, R187, R191). -/

namespace Sys2Proof.Machine

/-- The next non-transparent character of a block at or after a place (R193). -/
def nextChar (b : SignBlock) (start : Nat) : Option (Fin 48) :=
  (each 48).find? fun j => start ≤ j.val && b.chars[j.val].code != 0

/-- A transfer that starts: at its header, with no raster-only request and ERR count 0 (R193, R194). -/
def SignTransfer.restart (x : SignTransfer) (t : Option BlockId) : SignTransfer :=
  { x with status := .running, target := t, next := none, rasterOnly := false, errors := 0, carried := none,
           again := none }

/-- The place moves on from `start`; a transfer with no character left has ended (R193). -/
def SignTransfer.advance (x : SignTransfer) (b : Option SignBlock) (start : Nat) : SignTransfer :=
  match b with
  | none => { x with status := .ended }
  | some b =>
    match nextChar b start with
    | some j => { x with next := some j }
    | none => { x with status := .ended }

/-- A character's word: row, column, and its code, colour and flash flag (R193). -/
def charWord (b : SignBlock) (j : Fin 48) : CommandWord :=
  let c := b.chars[j.val]
  .signChar (24 ≤ j.val) (BitVec.ofNat 5 (j.val % 24)) c.flash c.colour c.code

namespace State

/-- The idle display of a zone: its idle sign block, or blank (R192). -/
def idleDisplay (s : State) (z : ZoneId) : Option BlockId := (s.zone z).cfg.idleBlock

/-- The raster colour sent to a zone's signs for a target (R192). It is read from the records as each header is taken (log
entry 41). -/
def rasterColour (s : State) (z : Option ZoneId) (t : Option BlockId) : BitVec 3 :=
  match z with
  | some z =>
    if s.alarmed z then BitVec.ofNat 3 (s.zone z).cfg.alarmRaster
    else match t with
      | some b => (s.signBlock b).raster
      | none => 0
  | none => 0

/-- A full transfer of the zone's target starts at a SIGN position, unless the node has been told away (R191, R193). -/
def startTransfer (z : ZoneId) (s : State) (n : PosId) : State :=
  s.modTransfer n fun x => if x.away then x else x.restart (s.target z)

/-- Full transfers start for every SIGN position of the zone that is enabled (R192; the model's choice, log entry 44). -/
def startTransfers (z : ZoneId) (s : State) : State := (s.positionsOf .sign z).foldl (startTransfer z) s

/-- Set a zone's display target; the value it holds already starts nothing, but for a node that has given up when a
presentation starts (R192). -/
def setTarget (z : ZoneId) (t : Option BlockId) (atStart : Bool) (s : State) : State :=
  if s.target z == t then
    if atStart then
      (s.positionsOf .sign z).foldl
        (fun s n => if (s.transfer n).status == .gaveUp then startTransfer z s n else s) s
    else s
  else startTransfers z (s.modTarget z fun _ => t)

/-- Each enabled SIGN position of the zone takes a raster-only request (R194, log entry 44). -/
def rasterRefresh (z : ZoneId) (s : State) : State :=
  (s.positionsOf .sign z).foldl (fun s n => s.modTransfer n fun x => { x with rasterOnly := true }) s

/-- The header of a transfer (R193); its row count is 2 for a block and 0 for blank. -/
def headerWord (s : State) (z : Option ZoneId) (t : Option BlockId) (rasterOnly : Bool) : CommandWord :=
  .signHeader rasterOnly (s.rasterColour z t) (if t.isSome then 2 else 0)

/-- The next word of a SIGN position and its transfer moved on (R193, R194). -/
def nextSignWord (s : State) (z : Option ZoneId) (x : SignTransfer) : CommandWord × SignTransfer :=
  if x.away then (.signIdle, x)
  else match x.again with
    | some w => (w, { x with again := none })
    | none =>
      match x.status with
      | .stopped | .gaveUp => (.signIdle, x)
      | .ended =>
        if x.rasterOnly then (s.headerWord z x.target true, { x with rasterOnly := false }) else (.signIdle, x)
      | .running =>
        let block := x.target.map s.signBlock
        if x.rasterOnly then (s.headerWord z x.target true, { x with rasterOnly := false })
        else match x.next, block with
          | none, b => (s.headerWord z x.target false, x.advance b 0)
          | some j, some b => (charWord b j, x.advance (some b) (j.val + 1))
          | some _, none => (.signIdle, { x with status := .ended })

/-- A Branch Engine takes the word of a SIGN position. -/
def takeSignWord (n : PosId) (z : Option ZoneId) (s : State) : CommandWord × State :=
  let r := s.nextSignWord z (s.transfer n)
  (r.1, s.modTransfer n fun _ => { r.2 with carried := some r.1 })

/-- A PA command as a branch word. -/
def paWord : PaCommand → CommandWord
  | .play clip level => .paPlay (BitVec.ofNat 8 clip) (BitVec.ofNat 4 level)
  | .stop => .paStop

/-- A Branch Engine takes the word of a PA position: the waiting command, or KEEP (R187). -/
def takePaWord (n : PosId) (s : State) : CommandWord × State :=
  match (s.paNode n).waiting with
  | some c => (paWord c, s.modPaNode n fun _ => ⟨none, some c⟩)
  | none => (.paKeep, s.modPaNode n fun _ => ⟨none, none⟩)

/-- The word taken for a SIGN or PA position was not delivered (R50, R187, R193). -/
def undelivered (n : PosId) (c : NodeClass) (s : State) : State :=
  match c with
  | .pa => s.modPaNode n fun x => ⟨if x.waiting.isSome then x.waiting else x.carried, none⟩
  | .sign => s.modTransfer n fun x =>
      { x with again := if x.carried.isSome then x.carried else x.again, carried := none }
  | _ => s

/-- The burst that carried the words of a position has ended. -/
def burstDelivered (s : State) (n : PosId) : State :=
  (s.modPaNode n fun x => { x with carried := none }).modTransfer n fun x => { x with carried := none }

/-- A new command replaces a waiting one (R187). -/
def paCommand (c : PaCommand) (s : State) (n : PosId) : State := s.modPaNode n fun x => { x with waiting := some c }

/-- A SIGN position is not present: its transfer stops (R191). -/
def signAway (n : PosId) (s : State) : State :=
  s.modTransfer n fun x => { x with status := .stopped, carried := none, again := none, away := true }

/-- A SIGN position is present: a full transfer of its zone's target starts (R191). -/
def signBack (n : PosId) (z : Option ZoneId) (s : State) : State :=
  let s := s.modTransfer n fun x => { x with away := false }
  match z with
  | some z => startTransfer z s n
  | none => s

/-- A delivered SIGN reply (R194). An ERR in the burst that carried the transfer's header answers an earlier word. -/
def signReply (n : PosId) (err : Bool) (s : State) : State :=
  s.modTransfer n fun x =>
    let headerInFlight := match x.carried with
      | some (.signHeader false _ _) => true
      | _ => false
    match x.status with
    | .running | .ended =>
      if !err || headerInFlight then x
      else if x.errors = 0 then { x.restart x.target with errors := 1 }
      else { x with status := .gaveUp }
    | _ => x

/-- A block was written: full transfers start in every zone whose target it is (R194). -/
def blockWritten (k : BlockId) (s : State) : State :=
  (each 8).foldl (fun s z => if s.target z == some k then startTransfers z s else s) s

end State

end Sys2Proof.Machine
end

