-- ==== Sys2Proof/Machine/Calls.lean ====
section
/-! DEFINITION. The call queue, presentations and chime arbitration (11.1 to 11.3, 6.7). -/

namespace Sys2Proof.Machine

/-- How many calls the queue holds at most (R181). -/
def callLimit : Nat := 16

/-- The clip timer (R187), in ms. -/
def clipTime : Nat := 60000

/-- The reasons of CALL_DONE (R38). -/
inductive DoneReason
  | completed | cancelled | evicted
  deriving DecidableEq, Repr

def CallClass.rank (c : CallClass) : Nat := c.ctorIdx

/-- FIRE and EVACUATE, the classes of the internal alarm calls. -/
def CallClass.isAlarm : CallClass → Bool
  | .fire | .evacuate => true
  | _ => false

/-- The item of a zone. -/
def Call.item (c : Call) (z : ZoneId) : Option ProgressItem := c.items.find? fun i => i.zone == z

/-- WAITING with its gap timer not running (R181). -/
def Call.eligible (c : Call) (z : ZoneId) : Bool :=
  match c.item z with
  | some i => i.status == .waiting && i.gap.isNone
  | none => false

def Call.modItem (c : Call) (z : ZoneId) (f : ProgressItem → ProgressItem) : Call :=
  { c with items := c.items.map fun i => if i.zone == z then f i else i }

def Call.complete (c : Call) : Bool := c.items.all fun i => i.status == .done

/-- The call of highest class, and within it the oldest, of a list in order of acceptance (R185). -/
def bestCall : List Call → Option Call
  | [] => none
  | c :: cs =>
    match bestCall cs with
    | some b => if c.cls.rank < b.cls.rank then some b else some c
    | none => some c

/-- The call an arriving call of a class evicts: the newest of the lowest class below its own (R183). -/
def victim (cls : CallClass) : List Call → Option Call
  | [] => none
  | c :: cs =>
    match victim cls cs with
    | some b => if c.cls.rank < b.cls.rank then some c else some b
    | none => if c.cls.rank < cls.rank then some c else none

/-- A fresh progress list for a set of zones (R181). -/
def freshItems (zones : List ZoneId) (repeats : Nat) : List ProgressItem := zones.map fun z => ⟨z, repeats, .waiting, none⟩

namespace State

def findCall (s : State) (tag : Byte) : Option Call := s.calls.queue.find? fun c => c.tag == tag

def modCall (s : State) (tag : Byte) (f : Call → Call) : State :=
  s.modQueue fun q => q.map fun c => if c.tag == tag then f c else c

def setChime (s : State) (r : Option ChimeRecord) : State := s.modCalls fun c => { c with chime := r }

def postDone (s : State) (tag : Byte) (why : DoneReason) : State :=
  s.post .callDone tag.toNat (BitVec.ofNat 16 why.ctorIdx)

/-- Change the presentation of a zone, if one stands. -/
def modPresentation (s : State) (z : ZoneId) (f : Presentation → Presentation) : State := s.modPresenting z (·.map f)

/-! ### The chime player (R110, R111) -/

/-- Entry to ON: the pattern's tone is read, the CHIME pair started and the on time timed. -/
def playerOn (s : State) : State :=
  let e := s.chime s.player.pattern
  (s.startPair .chime e.tone (e.tone * e.duty / 100)).modPlayer fun p => { p with state := .on, timer := ms e.onTime }

/-- A play request, taken in IDLE. -/
def play (k : ChimeId) (s : State) : State :=
  if s.player.state == .idle then playerOn (s.modPlayer fun p => { p with pattern := k, played := 0 }) else s

/-- A cut. -/
def cut (s : State) : State :=
  if s.player.state == .idle then s
  else (s.stopChannel .chime).modPlayer fun p => { p with state := .idle, timer := none }

/-! ### Phases (R186 to R188) -/

/-- Enter HOLD (R188). -/
def enterHold (z : ZoneId) (s : State) : State :=
  s.modPresentation z fun p =>
    { p with phase := .hold, holdTimer := ms ((s.zone z).cfg.holdTime * 1000), clipTimer := none, awaited := [] }

/-- The PA positions a CLIP phase awaits (R187). -/
def paAwaited (s : State) (z : ZoneId) : List PosId :=
  (s.positionsOf .pa z).filter fun n =>
    (s.position n).presence != .absent &&
      match (s.branch (branchOf n)).state with
      | .idle | .burst => true
      | _ => false

/-- The level of a call's clip in a zone (R187). -/
def clipLevel (s : State) (z : ZoneId) (c : Call) : Nat :=
  match c.level with
  | some l => l
  | none => if c.cls.isAlarm then (s.zone z).cfg.alarmLevel else (s.zone z).cfg.callLevel

/-- Enter CLIP; with no node to await the phase ends at once (R187). -/
def enterClip (z : ZoneId) (c : Call) (clip : Nat) (s : State) : State :=
  let nodes := s.paAwaited z
  let s := nodes.foldl (paCommand (.play clip (s.clipLevel z c))) s
  if nodes.isEmpty then enterHold z s
  else s.modPresentation z fun p => { p with phase := .clip, clipTimer := ms clipTime, awaited := nodes }

/-- The phase after CHIME: CLIP if the call has a clip, otherwise HOLD. -/
def afterChime (z : ZoneId) (c : Call) (s : State) : State :=
  match c.clip with
  | some clip => enterClip z c clip s
  | none => enterHold z s

/-- The call a zone presents. -/
def presentedCall (s : State) (z : ZoneId) : Option Call :=
  match s.presenting z with
  | some p => s.findCall p.tag
  | none => none

/-- A zone leaves CHIME: its claim is withdrawn and its next phase entered (R186). -/
def chimeOver (s : State) (z : ZoneId) : State :=
  let s := withdrawPin (.chime z) s
  match s.presentedCall z with
  | some c => afterChime z c s
  | none => s

/-- A zone joins the chiming set and claims its CHIME pin (R186). -/
def joinChime (s : State) (z : ZoneId) : State :=
  let s := s.modPresentation z fun p => { p with phase := .chime }
  let s := match s.calls.chime with
    | some r => s.setChime (some { r with zones := (each 8).filter fun y => r.zones.contains y || y == z })
    | none => s
  claimPin (.chime z) .service s

/-- The player plays a call's pattern for a first zone. -/
def startChime (z : ZoneId) (c : Call) (pattern : ChimeId) (s : State) : State :=
  joinChime ((play pattern s).setChime (some ⟨c.tag, c.cls, []⟩)) z

/-- Enter CHIME, as the chime record decides (R186). -/
def enterChime (z : ZoneId) (c : Call) (pattern : ChimeId) (s : State) : State :=
  match s.calls.chime with
  | none => startChime z c pattern s
  | some r =>
    if r.tag == c.tag then joinChime s z
    else if r.cls.rank < c.cls.rank then
      startChime z c pattern ((r.zones.foldl chimeOver (cut s)).setChime none)
    else s.modPresentation z fun p => { p with phase := .chimeWait }

/-- The zones that wait for the player. -/
def chimeWaiting (s : State) : List ZoneId :=
  (each 8).filter fun z => match s.presenting z with
    | some p => p.phase == .chimeWait
    | none => false

/-- Judge the CHIME_WAIT zones: the one of the highest class, oldest first, takes the player, and the others with the same
tag join it (R186). -/
def judgeWaiting (s : State) : State :=
  let presents (t : Byte) (z : ZoneId) : Bool := match s.presenting z with
    | some p => p.tag == t
    | none => false
  match bestCall (s.calls.queue.filter fun c => s.chimeWaiting.any (presents c.tag)) with
  | some c =>
    match s.chimeWaiting.filter (presents c.tag), c.pattern with
    | z :: zs, some pattern => zs.foldl joinChime (startChime z c pattern s)
    | _, _ => s
  | none => s

/-- The pattern-ended notice (R186). -/
def patternEnded (s : State) : State :=
  match s.calls.chime with
  | some r => judgeWaiting ((r.zones.foldl chimeOver s).setChime none)
  | none => s

/-- A zone leaves the chiming set before the pattern ends; an empty set cuts the pattern (R186). -/
def leaveChime (z : ZoneId) (s : State) : State :=
  match s.calls.chime with
  | some r =>
    if r.zones.contains z then
      let s := withdrawPin (.chime z) s
      let rest := r.zones.filter (· != z)
      if rest.isEmpty then judgeWaiting ((cut s).setChime none) else s.setChime (some { r with zones := rest })
    else s
  | none => s

/-! ### Selection (R185) -/

/-- A presentation starts (R185). -/
def startPresentation (z : ZoneId) (c : Call) (s : State) : State :=
  let s := s.modCall c.tag fun c => c.modItem z fun i => { i with status := .presenting }
  let s := s.modPresenting z fun _ => some ⟨c.tag, .hold, none, none, []⟩
  let s := setTarget z (if c.block.isSome then c.block else s.idleDisplay z) true s
  match c.pattern with
  | some pattern => enterChime z c pattern s
  | none => afterChime z c s

/-- The selection pass of a zone that presents nothing; an UNUSED zone runs none (R185). -/
def selectCall (s : State) (z : ZoneId) : State :=
  if (s.presenting z).isSome || (s.zone z).state == .unused then s
  else match bestCall (s.calls.queue.filter fun c => c.eligible z) with
    | some c => startPresentation z c s
    | none => setTarget z (s.idleDisplay z) false s

/-- A presentation ends uncounted (R189); STOP is given to the zone's enabled PA positions (the model's choice, log entry 44). -/
def endUncounted (s : State) (z : ZoneId) : State :=
  match s.presenting z with
  | some p =>
    let s := (s.positionsOf .pa z).foldl (paCommand .stop) s
    let s := s.modCall p.tag fun c => c.modItem z fun i => { i with status := .waiting, gap := none }
    leaveChime z (s.modPresenting z fun _ => none)
  | none => s

/-! ### Arrival and removal (R183, R190) -/

/-- The zones that present a tag. -/
def zonesPresenting (s : State) (tag : Byte) : List ZoneId :=
  (each 8).filter fun z => match s.presenting z with
    | some p => p.tag == tag
    | none => false

/-- A cancel or an eviction removes a queued call (R190). -/
def removeCall (tag : Byte) (why : DoneReason) (s : State) : State :=
  let zones := s.zonesPresenting tag
  let s := (zones.foldl endUncounted s).modQueue fun q => q.filter fun c => c.tag != tag
  zones.foldl selectCall (s.postDone tag why)

/-- A call joins the queue as its newest member and takes the arrival counter's value (R181, R183). -/
def accept (c : Call) (s : State) : State :=
  s.modCalls fun u => { u with queue := u.queue ++ [{ c with arrival := u.arrival }], arrival := u.arrival + 1 }

/-- A call arrives; at a full queue it joins after an eviction, or not at all (R183). -/
def enqueue (c : Call) (s : State) : Option State :=
  if s.calls.queue.length < callLimit then some (accept c s)
  else match victim c.cls s.calls.queue with
    | some v => some (accept c (removeCall v.tag .evicted s))
    | none => none

/-- A call of an alarm class takes a zone that presents nothing or a call of lower class (R185, R189). -/
def preempt (z : ZoneId) (c : Call) (s : State) : State :=
  match s.presentedCall z with
  | some p => if p.tag == c.tag || p.cls.rank < c.cls.rank then selectCall (endUncounted s z) z else s
  | none => selectCall s z

/-- An internal call of one zone is posted (R184). -/
def postInternal (c : Call) (z : ZoneId) (s : State) : State :=
  match s.findCall c.tag with
  | some old =>
    if c.cls.isAlarm && old.cls.rank < c.cls.rank then
      preempt z c (s.modCall c.tag fun x => { x with cls := c.cls, clip := c.clip, block := c.block, level := c.level })
    else s
  | none =>
    match enqueue c s with
    | some s => if c.cls.isAlarm then preempt z c s else selectCall s z
    | none => s.post .callDropped c.tag.toNat (BitVec.ofNat 16 (z.val + 1))

/-- An internal cancel (R184). -/
def cancelInternal (tag : Byte) (s : State) : State :=
  if (s.findCall tag).isSome then removeCall tag .cancelled s else s

/-- Zone z's internal alarm call has tag 239 + z (introduction). -/
def alarmTag (z : ZoneId) : Byte := BitVec.ofNat 8 (240 + z.val)

/-- Zone z's internal door-warning call has tag 247 + z (introduction). -/
def doorTag (z : ZoneId) : Byte := BitVec.ofNat 8 (248 + z.val)

/-- The internal alarm call of a zone (R128). -/
def alarmCall (s : State) (z : ZoneId) (evac : Bool) : Call :=
  let g := (s.zone z).cfg
  { tag := alarmTag z, cls := if evac then .evacuate else .fire, origin := .internal,
    clip := if evac then g.evacClip else g.fireClip, block := if evac then g.evacBlock else g.fireBlock,
    pattern := none, level := some g.alarmLevel, repeats := 0, gap := 0, arrival := 0, items := freshItems [z] 0 }

/-- The internal door-warning call of a zone (R149). -/
def doorCall (s : State) (z : ZoneId) : Call :=
  let g := (s.zone z).cfg
  { tag := doorTag z, cls := .safety, origin := .internal, clip := g.doorClip, block := g.doorBlock, pattern := none,
    level := none, repeats := 0, gap := 0, arrival := 0, items := freshItems [z] 0 }

/-! ### The ends of phases -/

/-- The nodes awaited are fewer; an empty set ends the CLIP phase (R187). -/
def dropAwaited (n : PosId) (s : State) (z : ZoneId) : State :=
  match s.presenting z with
  | some p =>
    if p.phase == .clip && p.awaited.contains n then
      let s := s.modPresentation z fun p => { p with awaited := p.awaited.filter (· != n) }
      if (p.awaited.filter (· != n)).isEmpty then enterHold z s else s
    else s
  | none => s

/-- A delivered PA reply (R187); contents 1 is PLAYING. -/
def paReply (n : PosId) (contents : Word) (s : State) : State :=
  let playing (c : Option PaCommand) : Bool := match c with
    | some (.play _ _) => true
    | _ => false
  if playing (s.paNode n).waiting || playing (s.paNode n).carried || contents == 1 then s
  else (each 8).foldl (dropAwaited n) s

/-- A PA position is not present (R191). -/
def paAway (n : PosId) (s : State) : State :=
  ((each 8).foldl (dropAwaited n) s).modPaNode n fun x => { x with waiting := none }

/-- The hold timer ends: the presentation ends and is counted (R188). -/
def finishPresentation (z : ZoneId) (s : State) : State :=
  match s.presenting z with
  | some p =>
    let count (c : Call) (i : ProgressItem) : ProgressItem :=
      let gap := if c.gap = 0 then none else ms (c.gap * 1000)
      if c.repeats = 0 then { i with status := .waiting, gap := gap }
      else if i.remaining ≤ 1 then { i with remaining := 0, status := .done, gap := none }
      else { i with remaining := i.remaining - 1, status := .waiting, gap := gap }
    let s := s.modCall p.tag fun c => c.modItem z (count c)
    let s := s.modPresenting z fun _ => none
    let s := match s.findCall p.tag with
      | some c =>
        if c.complete then (s.modQueue fun q => q.filter fun c => c.tag != p.tag).postDone p.tag .completed else s
      | none => s
    selectCall s z
  | none => s

/-- The clip timer expires (R187). -/
def clipTimedOut (z : ZoneId) (s : State) : State :=
  match s.presenting z with
  | some p =>
    let s := s.post .clipTimeout (z.val + 1) (p.tag.setWidth 16)
    enterHold z (p.awaited.foldl (paCommand .stop) s)
  | none => s

/-- A zone became UNUSED: its items are DONE, and a call with no other item left completes, calls in the order of the queue
(R190, log entry 40). Signs that showed an ended presentation turn to the idle display (R192, log entry 31). -/
def zoneRetired (z : ZoneId) (s : State) : State :=
  let shown := (s.presenting z).isSome
  let s := (s.calls.queue.filter fun c => (c.item z).isSome).foldl (fun s c =>
    let s := if (s.zonesPresenting c.tag).contains z then endUncounted s z else s
    let s := s.modCall c.tag fun c => c.modItem z fun i => { i with status := .done, gap := none }
    match s.findCall c.tag with
    | some c =>
      if c.complete then (s.modQueue fun q => q.filter fun x => x.tag != c.tag).postDone c.tag .completed else s
    | none => s) s
  if shown then setTarget z (s.idleDisplay z) false s else s

/-! ### Expiries -/

/-- The hold timer (R188). -/
def presentationHeld (z : ZoneId) (s : State) : State :=
  match s.presenting z with
  | some p => if p.phase == .hold && p.holdTimer.isSome then finishPresentation z s else s
  | none => s

/-- The clip timer (R187). -/
def clipExpired (z : ZoneId) (s : State) : State :=
  match s.presenting z with
  | some p => if p.phase == .clip && p.clipTimer.isSome then clipTimedOut z s else s
  | none => s

/-- The gap timer of an item: the item is eligible and its zone's selection pass runs (R185). -/
def gapExpired (tag : Byte) (z : ZoneId) (s : State) : State :=
  match (s.findCall tag).bind fun c => c.item z with
  | some i =>
    if i.gap.isSome then selectCall (s.modCall tag fun c => c.modItem z fun i => { i with gap := none }) z else s
  | none => s

/-- RESTART of the Call Unit (R195). -/
def restartCalls (s : State) : State :=
  let s := s.modCalls fun u =>
    { u with queue := [], arrival := 0, presenting := Vector.replicate 8 none, chime := none,
             paNodes := Vector.replicate 64 ⟨none, none⟩ }
  let s := (each 64).foldl (fun s n => s.modTransfer n fun x => { SignTransfer.reset with away := x.away }) s
  (each 8).foldl (fun s z => s.modTarget z fun _ => s.idleDisplay z) s

end State

end Sys2Proof.Machine
end

