-- ==== Sys2Proof/Machine/Doors.lean ====
section
/-! DEFINITION. The Door Unit (chapter 8).

An operation sets the door's fields, makes or withdraws its claims and posts DOOR_STATE (R150). `doorOp` then judges the warning
counts, with the door-warning calls (R149), and last passes the change of the door's state to the Permit Table, after all events
of the operation (R177, the example of chapter 10). A state that the same operation leaves at once is passed on before the next
is entered (log entry 17). -/

namespace Sys2Proof.Machine

/-- The reopen timer of R146, in ms. -/
def reopenTime : Nat := 30000

/-- CLOSED, AJAR and OBSTRUCTED take a REOPEN (R146). -/
def DoorState.reopens : DoorState → Bool
  | .closed | .ajar | .obstructed => true
  | _ => false

/-- The levels a door takes from its limits, for the changes that a PIN write makes (R134). -/
structure Limits where
  closed : Bool
  opened : Bool
  deriving DecidableEq, Repr

/-- What a part of a door operation leaves: the state, and whether the Permit Table is still to be told of the change to the
state the door is in now (R177). -/
structure DoorStep where
  state : State
  untold : Bool
  deriving DecidableEq, Repr

namespace State

/-! ### The warning count (R149) -/

/-- The enabled doors of a zone in the warning set. -/
def warningCount (s : State) (z : ZoneId) : Nat :=
  ((each 24).filter fun d => (s.door d).cfg.enabled && (s.door d).cfg.zone == z && (s.door d).state.warns).length

/-- Judge a zone's warning count: the door-warning call is posted when it leaves 0 and cancelled when it returns there. -/
def judgeWarning (z : ZoneId) (s : State) : State :=
  let n := s.warningCount z
  let old := s.warning z
  let s := s.modWarning z fun _ => n
  if old = 0 ∧ n ≠ 0 then
    if (s.zone z).cfg.configured then postInternal (s.doorCall z) z s else s
  else if old ≠ 0 ∧ n = 0 then cancelInternal (doorTag z) s
  else s

/-- Judge the warning counts at the end of an operation, that of the door's zone of before first. -/
def judgeWarnings (z : ZoneId) (s : State) : State := (each 8).foldl (fun t y => judgeWarning y t) (judgeWarning z s)

/-- Pass a change of the door's state on to the Permit Table, where there is one (R150, R177). -/
def tellDoor (d : DoorId) (x : DoorStep) : State := if x.untold then changed (.door d) x.state else x.state

/-- One operation of the Door Unit on a door: its own events, the warning counts (R149), and last the change notice (R177). -/
def doorOp (d : DoorId) (body : State → DoorStep) (s : State) : State :=
  let x := body s
  tellDoor d { x with state := judgeWarnings (s.door d).cfg.zone x.state }

/-- A part of a door operation that changes no state. -/
def still (s : State) : DoorStep := ⟨s, false⟩

/-! ### Entering states -/

/-- Withdraw every claim of a door. -/
def withdrawDoor (d : DoorId) (s : State) : State := withdrawPin (.doorRelease d) (withdrawPin (.doorHoldback d) s)

/-- Set a door's state, reason and timer. -/
def setDoor (d : DoorId) (dest : DoorState) (why : DoorReason) (t : Timer) (s : State) : State :=
  s.modDoor d fun x => { x with state := dest, reason := why, timer := t, retryPulse := false }

/-- DOOR_STATE is posted (R150); a change from the state the door was in is still to be told (R177). -/
def announceDoor (d : DoorId) (was : DoorState) (s : State) : DoorStep := ⟨s.postDoor d, (s.door d).state != was⟩

/-- Enter a state in which the door holds no claim. -/
def settleDoor (d : DoorId) (dest : DoorState) (why : DoorReason) (t : Timer) (s : State) : DoorStep :=
  announceDoor d (s.door d).state (withdrawDoor d (setDoor d dest why t s))

/-- Enter a state with the claims as they stand. -/
def moveDoor (d : DoorId) (dest : DoorState) (why : DoorReason) (t : Timer) (s : State) : DoorStep :=
  announceDoor d (s.door d).state (setDoor d dest why t s)

/-- Holds used and retries used become 0 and the hold request is cleared. -/
def clearHolds (d : DoorId) (s : State) : State :=
  s.modDoor d fun x => { x with holdsUsed := 0, retriesUsed := 0, holdRequest := false }

/-- Enter CLOSED: the close sequence ends (R137). -/
def enterClosed (d : DoorId) (why : DoorReason) (s : State) : DoorStep := settleDoor d .closed why none (clearHolds d s)

/-- Enter CLOSING with the travel timer (R142). -/
def enterClosing (d : DoorId) (why : DoorReason) (s : State) : DoorStep :=
  settleDoor d .closing why (ms (s.door d).cfg.travel) s

/-- Enter FAULT (R137, R148). -/
def enterDoorFault (d : DoorId) (s : State) : DoorStep :=
  settleDoor d .fault .limits none (s.modDoor d fun x => { x with holdRequest := false })

/-- Enter RELEASING with a release claim; its grant starts the pulse (R141). -/
def enterReleasing (d : DoorId) (why : DoorReason) (s : State) : DoorStep :=
  let t := (setDoor d .releasing why none s).modDoor d fun x => { x with retryPulse := why == .retry }
  announceDoor d (s.door d).state (claimPin (.doorRelease d) .fire t)

/-- Enter CREW_HOLD: any claim is withdrawn and holds used grows by one (R144). -/
def enterCrewHold (d : DoorId) (s : State) : DoorStep :=
  let s := s.modDoor d fun x => { x with holdsUsed := x.holdsUsed + 1, holdRequest := false }
  settleDoor d .crewHold .hold (ms ((s.door d).cfg.holdTime * 1000)) s

/-- Enter OPEN (R147). -/
def enterOpen (d : DoorId) (why : DoorReason) (s : State) : DoorStep := moveDoor d .opened why none s

/-- The warning timer expires: a MAGNET door drops its magnet (R140), a LATCH door fires its release (R141). -/
def warningOver (d : DoorId) (s : State) : DoorStep :=
  match (s.door d).cfg.kind with
  | .magnet => enterClosing d .timer s
  | .latch => enterReleasing d .timer s

/-- Enter WARNING; a warning time of 0 ends within the same operation (R139). -/
def enterWarning (d : DoorId) (why : DoorReason) (s : State) : DoorStep :=
  let x := moveDoor d .warning why (ms (s.door d).cfg.warning) s
  if (s.door d).cfg.warning = 0 then warningOver d (tellDoor d x) else x

/-- A MAGNET door in REOPENING claims its holdback, class HOLD (R146). A grant within the claim's own pass, taken with the
open limit active, brings the door on to OPEN (R147). -/
def claimHoldback (d : DoorId) (x : DoorStep) : DoorStep :=
  let x := { x with state := claimPinWith (signalBut (.doorHoldback d)) (.doorHoldback d) .hold x.state }
  if (x.state.door d).state == .reopening && x.state.functionGranted (.doorHoldback d) && x.state.openLimit d then
    enterOpen d .limit (tellDoor d x)
  else x

/-- Enter REOPENING (R146). -/
def enterReopening (d : DoorId) (why : DoorReason) (s : State) : DoorStep :=
  let x := moveDoor d .reopening why (ms reopenTime) s
  match (s.door d).cfg.kind with
  | .magnet => claimHoldback d x
  | .latch => x

/-- A door leaves service (R136). -/
def leaveService (d : DoorId) (why : DoorReason) (s : State) : DoorStep := settleDoor d .disabled why none (clearHolds d s)

/-! ### Service (R134 to R136) -/

/-- The pins a door of its kind requires are present (R134). -/
def doorReady (s : State) (d : DoorId) : Bool :=
  (s.pinOf (.doorClosedLimit d)).isSome &&
    match (s.door d).cfg.kind with
    | .magnet => (s.pinOf (.doorHoldback d)).isSome
    | .latch => (s.pinOf (.doorRelease d)).isSome

/-- The door's zone is in ALARM or EVACUATE with auto-close set. -/
def mustClose (s : State) (d : DoorId) : Bool :=
  s.alarmed (s.door d).cfg.zone && (s.zone (s.door d).cfg.zone).cfg.autoClose

/-- A door enters the state its limits give (R135). A door that its alarmed auto-close zone sends to WARNING has the reason ZONE
of R135 also where a change of zone or kind (R133) or ACK_FAULT (R148) derives it, for which those rules and the table of R150
give SERVICE: DESIGN CHOICE, log entry 47. -/
def deriveDoor (d : DoorId) (s : State) : DoorStep :=
  let s := clearHolds d s
  match s.closedLimit d, s.openLimit d with
  | true, false => enterClosed d .service s
  | true, true => enterDoorFault d s
  | false, false => enterClosing d .service s
  | false, true =>
    if s.mustClose d then enterWarning d .zone s
    else match (s.door d).cfg.kind with
      | .magnet => enterReopening d .service s
      | .latch => enterOpen d .service s

/-- A DISABLED door enters service, or stays DISABLED with reason PINS (R133, R136). -/
def tryService (d : DoorId) (s : State) : DoorStep :=
  if s.doorReady d then deriveDoor d s else still (s.modDoor d fun x => { x with reason := .pins })

/-- The consequences of a DOOR write on a door in service (R133); the reason of a WARNING it derives is that of log entry 47. -/
def rewriteInService (d : DoorId) (old new : DoorCfg) (s : State) : DoorStep :=
  if !new.enabled then leaveService d .record s
  else if new.zone != old.zone || new.kind != old.kind then
    let s := withdrawDoor d (s.modDoor d fun x => { x with timer := none })
    if s.doorReady d then deriveDoor d s else leaveService d .pins s
  else still s

/-- The consequences of a DOOR write on a DISABLED door (R133). A change of kind that completes the required pins of a door
with reason PINS brings it into service (R26, log entry 24). -/
def rewriteDisabled (d : DoorId) (old new : DoorCfg) (s : State) : DoorStep :=
  let why := (s.door d).reason
  if old.enabled && !new.enabled then
    still (s.modDoor d fun x => { x with reason := if why == .command then .command else .record })
  else if !old.enabled && new.enabled && why == .record then tryService d s
  else if new.enabled && new.kind != old.kind && why == .pins then tryService d s
  else still s

/-- An accepted DOOR write (R133). -/
def writeDoor (d : DoorId) (new : DoorCfg) (s : State) : State :=
  let old := (s.door d).cfg
  if new = old then s
  else doorOp d (fun s =>
    let s := s.modDoor d fun x => { x with cfg := new }
    if (s.door d).state == .disabled then rewriteDisabled d old new s else rewriteInService d old new s) s

/-! ### Limits (R137, R147) -/

/-- The closed limit became active in a state that takes it. -/
def closedActive (d : DoorId) (s : State) : DoorStep :=
  match (s.door d).state with
  | .opened | .warning | .releasing | .closing | .obstructed | .ajar => enterClosed d .limit s
  | .reopening =>
    if (s.door d).cfg.kind == .magnet && s.functionGranted (.doorHoldback d) then still s
    else enterClosed d .limit s
  | _ => still s

/-- The open limit became active with the closed limit inactive. -/
def openActive (d : DoorId) (s : State) : DoorStep :=
  match (s.door d).state with
  | .reopening =>
    if (s.door d).cfg.kind == .latch || s.functionGranted (.doorHoldback d) then enterOpen d .limit s
    else still s
  | _ => still s

/-- The open limit became inactive. -/
def openInactive (d : DoorId) (s : State) : DoorStep :=
  match (s.door d).state with
  | .opened => enterClosing d .limit s
  | _ => still s

/-- The state takes limit changes: every state in service but FAULT. -/
def takesLimits (s : State) (d : DoorId) : Bool :=
  match (s.door d).state with
  | .disabled | .fault => false
  | _ => true

/-- A change of the open limit. -/
def openChange (d : DoorId) (active : Bool) (s : State) : DoorStep :=
  if !s.takesLimits d then still s
  else if s.closedLimit d && s.openLimit d then enterDoorFault d s
  else if active then (if s.closedLimit d then still s else openActive d s)
  else openInactive d s

/-- A change of the closed limit (R137); without an open-limit pin its becoming inactive is also the open limit becoming active
(R134), which a door that has just become AJAR ignores. -/
def closedChange (d : DoorId) (active : Bool) (s : State) : DoorStep :=
  if !s.takesLimits d then still s
  else if s.closedLimit d && s.openLimit d then enterDoorFault d s
  else if active then closedActive d s
  else if (s.door d).state == .closed then moveDoor d .ajar .limit none s
  else if (s.pinOf (.doorOpenLimit d)).isNone then openChange d true s
  else still s

/-! ### The hold button (R144) -/

/-- A press is granted while holds are left and the zone allows them. -/
def holdAllowed (s : State) (d : DoorId) : Bool :=
  (s.door d).holdsUsed < (s.door d).cfg.maxHolds && !(s.zone (s.door d).cfg.zone).cfg.noHold

/-- A judged press that is not granted. -/
def refuseHold (d : DoorId) (s : State) : DoorStep :=
  still ((s.modDoor d fun x => { x with reason := .holdRefused }).postDoor d)

/-- An active edge of the hold button. -/
def holdPress (d : DoorId) (s : State) : DoorStep :=
  let x := s.door d
  match x.state with
  | .warning | .closing => if s.holdAllowed d then enterCrewHold d s else refuseHold d s
  | .releasing =>
    if x.timer.isNone then (if s.holdAllowed d then enterCrewHold d s else refuseHold d s)
    else if x.holdRequest then still s
    else if s.holdAllowed d then still (s.modDoor d fun x => { x with holdRequest := true })
    else refuseHold d s
  | _ => still s

/-! ### Expiries -/

/-- The warning timer (R140, R141). -/
def warningExpired (d : DoorId) (kind : DoorKind) (s : State) : State :=
  let x := s.door d
  if x.state == .warning && x.timer.isSome && x.cfg.kind == kind then doorOp d (warningOver d) s else s

/-- The pulse timer (R141). -/
def pulseExpired (d : DoorId) (s : State) : State :=
  let x := s.door d
  if x.state == .releasing && x.timer.isSome then
    doorOp d (if x.holdRequest then enterCrewHold d else enterClosing d (if x.retryPulse then .retry else .timer)) s
  else s

/-- A travel expiry: OBSTRUCTED, and a LATCH door with a retry left re-enters RELEASING (R142, R143). -/
def travelOver (d : DoorId) (s : State) : DoorStep :=
  let x := settleDoor d .obstructed .travel none s
  let y := s.door d
  if y.cfg.kind == .latch && y.retriesUsed < y.cfg.retries then
    enterReleasing d .retry ((tellDoor d x).modDoor d fun y => { y with retriesUsed := y.retriesUsed + 1 })
  else x

def travelExpired (d : DoorId) (s : State) : State :=
  if (s.door d).state == .closing && (s.door d).timer.isSome then doorOp d (travelOver d) s else s

/-- The crew hold ends (R145). -/
def holdExpired (d : DoorId) (s : State) : State :=
  if (s.door d).state == .crewHold && (s.door d).timer.isSome then
    doorOp d (if s.closedLimit d && !s.openLimit d then enterClosed d .holdEnd else enterWarning d .holdEnd) s
  else s

/-- The reopen timer (R147). -/
def reopenExpired (d : DoorId) (s : State) : State :=
  if (s.door d).state == .reopening && (s.door d).timer.isSome then
    doorOp d (if s.closedLimit d then enterClosed d .reopenTimeout else enterClosing d .reopenTimeout) s
  else s

/-! ### The zone's alarm and the pins -/

/-- Every enabled auto-close door of a zone in OPEN or REOPENING enters WARNING, in ascending number (R128, R138). -/
def alarmDoors (z : ZoneId) (s : State) : State :=
  if (s.zone z).cfg.autoClose then
    (each 24).foldl (fun s d =>
      let x := s.door d
      if x.cfg.enabled && x.cfg.zone == z && (x.state == .opened || x.state == .reopening) then
        doorOp d (enterWarning d .zone) s
      else s) s
  else s

def limitsOf (s : State) (d : DoorId) : Limits := ⟨s.closedLimit d, s.openLimit d⟩

/-- A change of the door's pins: service is entered or left (R134, R135), and an open limit taken afresh from the new
arrangement is handled as a limit change (R134). -/
def doorPins (d : DoorId) (before : Limits) (s : State) : State :=
  doorOp d (fun s =>
    if (s.door d).state == .disabled then
      if (s.door d).cfg.enabled && (s.door d).reason == .pins && s.doorReady d then deriveDoor d s else still s
    else if !s.doorReady d then leaveService d .pins s
    else if s.openLimit d != before.opened then openChange d (s.openLimit d) s
    else still s) s

/-! ### Commands (R136, R138, R146, R148) -/

/-- CLOSE in each state; none where it is refused (R138). -/
def closeDoor (d : DoorId) (s : State) : Option State :=
  match (s.door d).state with
  | .opened | .reopening => some (doorOp d (enterWarning d .close) s)
  | .warning | .releasing | .closing | .crewHold | .closed => some s
  | .ajar | .obstructed =>
    match (s.door d).cfg.kind with
    | .magnet => some (doorOp d (enterClosing d .close) s)
    | .latch => some (doorOp d (enterReleasing d .close) s)
  | .fault | .disabled => none

/-- REOPEN's own effect (R146); the open limit is a level, so a LATCH door whose limit stands active is OPEN at once (log
entry 19). -/
def reopenDoor (d : DoorId) (s : State) : State :=
  doorOp d (fun s =>
    let x := enterReopening d .reopen (clearHolds d s)
    if (s.door d).cfg.kind == .latch && s.openLimit d && !s.closedLimit d then enterOpen d .limit (tellDoor d x) else x) s

/-! ### RESTART (R152) -/

/-- The fields of a door that RESTART clears. A door in service waits in CLOSING, which takes no grant and no alarm of its zone,
until it is derived (log entry 23). -/
def restartDoorFields (s : State) (d : DoorId) : State :=
  let s := (clearHolds d s).modDoor d fun x => { x with timer := none }
  if (s.door d).state == .disabled then s else setDoor d .closing .restart none s

/-- The claims of a door in service: one whose leaf stands open keeps or makes its holdback claim, or keeps a granted one where
its zone makes it close; any other claim is withdrawn. With a warning time of 0 the closing door drops its magnet or claims its
release at once (R139 to R141, log entry 23). -/
def restartClaims (s : State) (d : DoorId) : State :=
  let x := (s.door d).cfg
  if (s.door d).state == .disabled then s
  else if s.closedLimit d || !s.openLimit d then withdrawDoor d s
  else match s.mustClose d, x.kind with
    | true, .magnet => if x.warning ≠ 0 ∧ s.functionGranted (.doorHoldback d) = true then s else withdrawDoor d s
    | true, .latch => if x.warning = 0 then claimPin (.doorRelease d) .fire (withdrawDoor d s) else withdrawDoor d s
    | false, .magnet => claimPin (.doorHoldback d) .hold s
    | false, .latch => withdrawDoor d s

/-- The state a door in service takes from its limits and its claim, with reason RESTART. A warning time of 0 has ended, and
leaves a MAGNET door CLOSING and a LATCH door RELEASING, its pulse running if its claim is granted. -/
def restartState (d : DoorId) (s : State) : State :=
  let x := (s.door d).cfg
  match s.closedLimit d, s.openLimit d with
  | true, false => setDoor d .closed .restart none s
  | true, true => setDoor d .fault .restart none s
  | false, false => setDoor d .closing .restart (ms x.travel) s
  | false, true =>
    if s.mustClose d then
      if x.warning ≠ 0 then setDoor d .warning .restart (ms x.warning) s
      else match x.kind with
        | .magnet => setDoor d .closing .restart (ms x.travel) s
        | .latch => setDoor d .releasing .restart (if s.functionGranted (.doorRelease d) then ms x.pulse else none) s
    else if x.kind == .magnet && !s.functionGranted (.doorHoldback d) then setDoor d .reopening .restart (ms reopenTime) s
    else setDoor d .opened .restart none s

/-- A door is derived again; DOOR_STATE is posted if its state differs from that before the RESTART. No notice is needed, since
no ramp is driven (R177). -/
def restartDoor (before : DoorId → DoorState) (s : State) (d : DoorId) : State :=
  if (s.door d).state == .disabled then s
  else
    let s := restartState d s
    if (s.door d).state != before d then s.postDoor d else s

/-- RESTART of the Door Unit once all claims are made: the states they lead to, and the warning counts judged afresh. -/
def restartDoors (before : DoorId → DoorState) (s : State) : State :=
  (each 8).foldl (fun s z => judgeWarning z s) ((each 24).foldl (restartDoor before) s)

end State

end Sys2Proof.Machine
end

