-- ==== Sys2Proof/Machine/Operands.lean ====
section
/-! DEFINITION. The operand forms: request payload fields and their checks (R21 step 2, R197), the codes of enumerated
values (R196), and the packing of reply payloads (12.2). -/

namespace Sys2Proof.Machine

/-! ### Answers -/

/-- The result of a request and its reply payload (R22). -/
structure Answer where
  result : Result
  payload : List Word
  deriving DecidableEq, Repr

/-- A number as a payload word. -/
def enc (n : Nat) : Word := BitVec.ofNat 16 n

def Answer.done : Answer := ⟨.done, []⟩
/-- REFUSED_RANGE on a field (R22). -/
def Answer.range (field : Nat) : Answer := ⟨.refusedRange, [enc field]⟩
def Answer.conflict (field : Nat) : Answer := ⟨.refusedConflict, [enc field]⟩
def Answer.locked : Answer := ⟨.refusedLocked, []⟩
/-- REFUSED_STATE to a TABLE_WRITE, on a field (R22). -/
def Answer.stateField (field : Nat) : Answer := ⟨.refusedState, [enc field]⟩
/-- REFUSED_STATE to any other request (R22). -/
def Answer.state : Answer := ⟨.refusedState, []⟩
def Answer.permit (k : PermitId) : Answer := ⟨.refusedPermit, [enc k.val]⟩
def Answer.full : Answer := ⟨.refusedFull, []⟩
def Answer.duplicate : Answer := ⟨.refusedDuplicate, []⟩
def Answer.unknown : Answer := ⟨.unknownRequest, []⟩

/-- What a request leaves: the state and its answer. -/
abbrev Answered := State × Answer

/-! ### Field checks -/

/-- A payload that cannot be read: of the wrong length, or faulty first in a field. -/
inductive Misread
  | length
  | field (n : Nat)
  deriving DecidableEq, Repr

abbrev Read (α : Type) := Except Misread α

/-- The value of field `n`, or the fault of that field. -/
def need {α : Type} (n : Nat) : Option α → Read α
  | some a => .ok a
  | none => .error (.field n)

/-- A condition that field `n` must meet. -/
def must (n : Nat) (c : Bool) : Read Unit := if c then .ok () else .error (.field n)

/-- 0 for clear and 1 for set. -/
def flag? (w : Word) : Option Bool :=
  if w = 0 then some false else if w = 1 then some true else none

/-- A number in a range. -/
def range? (lo hi : Nat) (w : Word) : Option Nat := if lo ≤ w.toNat && w.toNat ≤ hi then some w.toNat else none

/-- An object numbered from 0. -/
def index? (n : Nat) (w : Word) : Option (Fin n) := if h : w.toNat < n then some ⟨w.toNat, h⟩ else none

/-- An object numbered from 1. -/
def number? (n : Nat) (w : Word) : Option (Fin n) :=
  if h : 1 ≤ w.toNat ∧ w.toNat ≤ n then some ⟨w.toNat - 1, by omega⟩ else none

/-- A value of a list, by its place in it. -/
def code? {α : Type} (l : List α) (w : Word) : Option α := l[w.toNat]?

/-- An optional field of one word: bit 15 set marks it absent, and then its other bits are zero (12.2, R197). -/
def optional? {α : Type} (f : Word → Option α) (w : Word) : Option (Option α) :=
  if w = 0x8000 then some none else (f w).map some

/-- An enumerated value as a payload word. -/
def encFlag (b : Bool) : Word := if b then 1 else 0

/-- An optional field of one word. -/
def encOpt (o : Option Nat) : Word := match o with
  | some n => enc n
  | none => 0x8000

/-- An optional field of two words: a presence word and the value (12.2). -/
def encOpt2 (o : Option Word) : List Word := match o with
  | some w => [1, w]
  | none => [0, 0]

/-! ### Function and binding codes -/

/-- The code and the index of a pin function (R76, R77). -/
def PinFunction.words : PinFunction → Word × Word
  | .unused => (0, 0)
  | .generalIn => (1, 0)
  | .generalOut => (2, 0)
  | .doorHoldback d => (3, enc (d.val + 1))
  | .doorRelease d => (4, enc (d.val + 1))
  | .doorOpenLimit d => (5, enc (d.val + 1))
  | .doorClosedLimit d => (6, enc (d.val + 1))
  | .doorHoldButton d => (7, enc (d.val + 1))
  | .rampLowerValve r => (8, enc (r.val + 1))
  | .rampRaiseValve r => (9, enc (r.val + 1))
  | .rampLock r => (10, enc (r.val + 1))
  | .rampStowLimit r => (11, enc (r.val + 1))
  | .rampLandLimit r => (12, enc (r.val + 1))
  | .rampLockedLimit r => (13, enc (r.val + 1))
  | .rampEncoder r => (14, enc (r.val + 1))
  | .rampBeacon r => (15, enc (r.val + 1))
  | .detector z => (16, enc (z.val + 1))
  | .callPoint z => (17, enc (z.val + 1))
  | .zoneBeacon z => (18, enc (z.val + 1))
  | .chime z => (19, enc (z.val + 1))

/-- The pin function of a code and an index word: a code outside the list faults field 1, an index field 2 (R76). -/
def readFunction (code index : Word) : Read PinFunction :=
  let door (f : DoorId → PinFunction) := (need 2 (number? 24 index)).map f
  let ramp (f : RampId → PinFunction) := (need 2 (number? 2 index)).map f
  let zone (f : ZoneId → PinFunction) := (need 2 (number? 8 index)).map f
  let plain (f : PinFunction) := (must 2 (index == 0)).map fun _ => f
  match code.toNat with
  | 0 => plain .unused
  | 1 => plain .generalIn
  | 2 => plain .generalOut
  | 3 => door .doorHoldback
  | 4 => door .doorRelease
  | 5 => door .doorOpenLimit
  | 6 => door .doorClosedLimit
  | 7 => door .doorHoldButton
  | 8 => ramp .rampLowerValve
  | 9 => ramp .rampRaiseValve
  | 10 => ramp .rampLock
  | 11 => ramp .rampStowLimit
  | 12 => ramp .rampLandLimit
  | 13 => ramp .rampLockedLimit
  | 14 => ramp .rampEncoder
  | 15 => ramp .rampBeacon
  | 16 => zone .detector
  | 17 => zone .callPoint
  | 18 => zone .zoneBeacon
  | 19 => zone .chime
  | _ => .error (.field 1)

/-- The code and the index of a binding (R95). -/
def Binding.words : Binding → Word × Word
  | .none => (0, 0)
  | .rampValve r => (1, enc (r.val + 1))
  | .rampEncoder r => (2, enc (r.val + 1))
  | .rampSpeed r => (3, enc (r.val + 1))
  | .zoneDetector z => (4, enc (z.val + 1))
  | .chime => (5, 0)
  | .flash1 => (6, 0)
  | .flash2 => (7, 0)

def readBinding (code index : Word) : Read Binding :=
  let ramp (f : RampId → Binding) := (need 2 (number? 2 index)).map f
  let plain (f : Binding) := (must 2 (index == 0)).map fun _ => f
  match code.toNat with
  | 0 => plain .none
  | 1 => ramp .rampValve
  | 2 => ramp .rampEncoder
  | 3 => ramp .rampSpeed
  | 4 => (need 2 (number? 8 index)).map .zoneDetector
  | 5 => plain .chime
  | 6 => plain .flash1
  | 7 => plain .flash2
  | _ => .error (.field 1)

/-! ### Table entries: reading the fields of a write and writing those of a read -/

/-- R28. -/
def readJunction : List Word → Read JunctionCfg
  | [a, b, c, d] => do
    let silenceTime ← need 1 (range? 40 2000 a)
    let localCycle ← need 2 (range? 10 200 b)
    let runGrace ← need 3 (range? 20 500 c)
    let loadBudget ← need 4 (range? 0 255 d)
    return { silenceTime, localCycle, runGrace, loadBudget }
  | _ => .error .length

def JunctionCfg.words (x : JunctionCfg) : List Word :=
  [enc x.silenceTime, enc x.localCycle, enc x.runGrace, enc x.loadBudget]

/-- R40. -/
def readBranch : List Word → Read BranchCfg
  | [a, b, c, d] => do
    let enable ← need 1 (flag? a)
    let rate ← need 2 (code? [.k125, .k250, .k500, .k1000] b)
    let lead ← need 3 (range? 0 15 c)
    let gap ← need 4 (range? 0 15 d)
    return { enable, rate, lead, gap }
  | _ => .error .length

def BranchCfg.words (x : BranchCfg) : List Word := [encFlag x.enable, enc x.rate.ctorIdx, enc x.lead, enc x.gap]

/-- R43: the zone is required for every class but GENERAL. -/
def readPosition : List Word → Read PositionCfg
  | [a, b, c, d, e, f] => do
    let enabled ← need 1 (flag? a)
    let fixed ← need 2 (flag? b)
    let cls ← need 3 (code? [.general, .sign, .pa, .sensor] c)
    let zone ← need 4 (optional? (number? 8) d)
    must 4 (zone.isSome || cls == .general)
    let policy ← need 5 (code? [.repeatLast, .idle, .safe] e)
    return { enabled, fixed, cls, zone, policy, safeValue := f }
  | _ => .error .length

def PositionCfg.words (x : PositionCfg) : List Word :=
  [encFlag x.enabled, encFlag x.fixed, enc x.cls.ctorIdx, encOpt (x.zone.map fun z => z.val + 1), enc x.policy.ctorIdx,
   x.safeValue]

/-- A ROUTE write as its payload words give it (R65). -/
structure RouteFields where
  valid : Bool
  branch : BranchId
  logical : Nat
  replyWanted : Bool
  deriving DecidableEq, Repr

/-- R65, R66. A logical number that no enabled position holds faults field 3 of a write with valid set, before a fault of
field 4 (R22); `held` says which numbers are held. -/
def readRoute (held : BranchId → Nat → Bool) : List Word → Read RouteFields
  | [a, b, c, d] => do
    let valid ← need 1 (flag? a)
    let branch ← need 2 (index? 4 b)
    let logical ← need 3 (range? 1 16 c)
    must 3 (!valid || held branch logical)
    let replyWanted ← need 4 (flag? d)
    return { valid, branch, logical, replyWanted }
  | _ => .error .length

/-- R76. -/
def readPin : List Word → Read PinCfg
  | [a, b, c, d, e, f, g] => do
    let function ← readFunction a b
    let polarity ← need 3 (code? [.activeHigh, .activeLow] c)
    let filter ← need 4 (if [0, 1, 4, 16, 64].contains d.toNat then some d.toNat else none)
    let encoder := match function with
      | .rampEncoder _ => true
      | _ => false
    must 4 (filter == 0 || (function.isInput && !encoder))
    let units ← need 5 (range? 0 63 e)
    let claimed := match function with
      | .rampLowerValve _ | .rampRaiseValve _ | .rampLock _ => false
      | _ => function.isOutput
    must 5 (units == 0 || claimed)
    let sheddable ← need 6 (flag? f)
    must 6 (!sheddable || function == .generalOut)
    let report ← need 7 (flag? g)
    must 7 (!report || (function.isInput && !encoder))
    return { function, polarity, filter, units, sheddable, report }
  | _ => .error .length

def PinCfg.words (x : PinCfg) : List Word :=
  [x.function.words.1, x.function.words.2, enc x.polarity.ctorIdx, enc x.filter, enc x.units, encFlag x.sheddable,
   encFlag x.report]

/-- R95. -/
def readChannel : List Word → Read ChannelCfg
  | [a, b, c, d, e] => do
    let binding ← readBinding a b
    let clock ← need 3 (code? [.micro, .milli] c)
    must 4 (d != 0 || !(binding == .flash1 || binding == .flash2))
    return { binding, clock, period := d.toNat, duty := e.toNat }
  | _ => .error .length

def ChannelCfg.words (x : ChannelCfg) : List Word :=
  [x.binding.words.1, x.binding.words.2, enc x.clock.ctorIdx, enc x.period, enc x.duty]

/-- R109. -/
def readChime : List Word → Read ChimeCfg
  | [a, b, c, d, e] => do
    let tone ← need 1 (range? 100 5000 a)
    let duty ← need 2 (range? 1 99 b)
    let onTime ← need 3 (range? 10 2000 c)
    let offTime ← need 4 (range? 10 2000 d)
    let repetitions ← need 5 (range? 1 15 e)
    return { tone, duty, onTime, offTime, repetitions }
  | _ => .error .length

def ChimeCfg.words (x : ChimeCfg) : List Word :=
  [enc x.tone, enc x.duty, enc x.onTime, enc x.offTime, enc x.repetitions]

/-- R115; a pair with both members none faults the clip of the pair when configured is set. -/
def readZone : List Word → Read ZoneCfg
  | [a, b, c, d, e, f, g, h, i, j, k, l, m, n, o, p] => do
    let configured ← need 1 (flag? a)
    let autoClose ← need 2 (flag? b)
    let noHold ← need 3 (flag? c)
    let threshold ← need 4 (range? 1 15 d)
    let window ← need 5 (range? 1000 60000 e)
    let alarmRaster ← need 6 (range? 0 7 f)
    let holdTime ← need 7 (range? 1 60 g)
    let idleBlock ← need 8 (optional? (index? 8) h)
    let fireClip ← need 9 (optional? (range? 0 255) i)
    let fireBlock ← need 10 (optional? (index? 8) j)
    must 9 (!configured || fireClip.isSome || fireBlock.isSome)
    let evacClip ← need 11 (optional? (range? 0 255) k)
    let evacBlock ← need 12 (optional? (index? 8) l)
    must 11 (!configured || evacClip.isSome || evacBlock.isSome)
    let doorClip ← need 13 (optional? (range? 0 255) m)
    let doorBlock ← need 14 (optional? (index? 8) n)
    must 13 (!configured || doorClip.isSome || doorBlock.isSome)
    let callLevel ← need 15 (range? 0 15 o)
    let alarmLevel ← need 16 (range? 0 15 p)
    return { configured, autoClose, noHold, threshold, window, alarmRaster, holdTime, idleBlock, fireClip, fireBlock,
             evacClip, evacBlock, doorClip, doorBlock, callLevel, alarmLevel }
  | _ => .error .length

def ZoneCfg.words (x : ZoneCfg) : List Word :=
  [encFlag x.configured, encFlag x.autoClose, encFlag x.noHold, enc x.threshold, enc x.window, enc x.alarmRaster,
   enc x.holdTime, encOpt (x.idleBlock.map (·.val)), encOpt x.fireClip, encOpt (x.fireBlock.map (·.val)),
   encOpt x.evacClip, encOpt (x.evacBlock.map (·.val)), encOpt x.doorClip, encOpt (x.doorBlock.map (·.val)),
   enc x.callLevel, enc x.alarmLevel]

/-- R132. -/
def readDoor : List Word → Read DoorCfg
  | [a, b, c, d, e, f, g, h, i] => do
    let zone ← need 1 (number? 8 a)
    let kind ← need 2 (code? [.magnet, .latch] b)
    let warning ← need 3 (range? 0 30000 c)
    let pulse ← need 4 (range? 50 2000 d)
    let travel ← need 5 (range? 1000 30000 e)
    let retries ← need 6 (range? 0 3 f)
    let holdTime ← need 7 (range? 5 120 g)
    let maxHolds ← need 8 (range? 0 3 h)
    let enabled ← need 9 (flag? i)
    return { zone, kind, warning, pulse, travel, retries, holdTime, maxHolds, enabled }
  | _ => .error .length

def DoorCfg.words (x : DoorCfg) : List Word :=
  [enc (x.zone.val + 1), enc x.kind.ctorIdx, enc x.warning, enc x.pulse, enc x.travel, enc x.retries, enc x.holdTime,
   enc x.maxHolds, encFlag x.enabled]

/-- R154; a slow point above the travel length faults its own field. -/
def readRamp : List Word → Read RampCfg
  | [a, b, c, d, e, f, g, h, i, j, k, l, m, n] => do
    let zone ← need 1 (number? 8 a)
    let units ← need 2 (range? 0 255 b)
    let travel ← need 3 (range? 1 65535 c)
    let slowStow ← need 4 (range? 0 travel d)
    let slowLand ← need 5 (range? 0 travel e)
    let creepDuty ← need 6 (range? 1 100 f)
    let runDuty ← need 7 (range? 1 100 g)
    let slowDuty ← need 8 (range? 1 100 h)
    let valvePeriod ← need 9 (range? 1 65535 i)
    let unlockTime ← need 10 (range? 200 10000 j)
    let lockTime ← need 11 (range? 200 10000 k)
    let minInterval ← need 12 (range? 1 65535 l)
    let stallTime ← need 13 (range? 100 5000 m)
    let enabled ← need 14 (flag? n)
    return { zone, units, travel, slowStow, slowLand, creepDuty, runDuty, slowDuty, valvePeriod, unlockTime, lockTime,
             minInterval, stallTime, enabled }
  | _ => .error .length

def RampCfg.words (x : RampCfg) : List Word :=
  [enc (x.zone.val + 1), enc x.units, enc x.travel, enc x.slowStow, enc x.slowLand, enc x.creepDuty, enc x.runDuty,
   enc x.slowDuty, enc x.valvePeriod, enc x.unlockTime, enc x.lockTime, enc x.minInterval, enc x.stallTime,
   encFlag x.enabled]

/-! ### Permit entries (R173, R174) -/

/-- A set of states as one word: not empty, and no bit beyond the states of its kind (R174). -/
def set? (n : Nat) (w : Word) : Option (BitVec n) :=
  if w.toNat ≠ 0 ∧ w.toNat < 2 ^ n then some (BitVec.ofNat n w.toNat) else none

/-- The four field words of condition `i`, fields 5 + 4i to 8 + 4i (R174). A required word of 1 for a door, ramp or zone is taken
as the set of the state coded 0, not as the code of ACTIVE (the model's choice, log entry 45). -/
def readCondition (i : Nat) (kind index input required : Word) : Read Condition := do
  let f := 5 + 4 * i
  match kind.toNat with
  | 0 =>
    let d ← need (f + 1) (number? 24 index)
    must (f + 2) (input == 0)
    let m ← need (f + 3) (set? 11 required)
    return .door d m
  | 1 =>
    let r ← need (f + 1) (number? 2 index)
    must (f + 2) (input == 0)
    let m ← need (f + 3) (set? 10 required)
    return .ramp r m
  | 2 =>
    let z ← need (f + 1) (number? 8 index)
    must (f + 2) (input == 0)
    let m ← need (f + 3) (set? 6 required)
    return .zone z m
  | 3 =>
    let p ← need (f + 1) (index? 32 index)
    must (f + 2) (input == 0)
    let a ← need (f + 3) (flag? required)
    return .pin p a
  | 4 =>
    let n ← need (f + 1) (index? 64 index)
    let k ← need (f + 2) (index? 16 input)
    let a ← need (f + 3) (flag? required)
    return .node n k a
  | _ => .error (.field f)

/-- The first `count` conditions of a list of field words. -/
def readConditions (i : Nat) : Nat → List Word → Read (List Condition)
  | 0, _ => .ok []
  | n + 1, a :: b :: c :: d :: rest => do
    let x ← readCondition i a b c d
    let xs ← readConditions (i + 1) n rest
    return x :: xs
  | _ + 1, _ => .error .length

def readAction (code index : Word) : Read PermitAction :=
  match code.toNat with
  | 0 => (need 3 (number? 2 index)).map .rampLower
  | 1 => (need 3 (number? 2 index)).map .rampRaise
  | 2 => (need 3 (number? 24 index)).map .doorReopen
  | 3 => (need 3 (number? 8 index)).map .zoneClear
  | _ => .error (.field 2)

/-- R173: a write with used clear empties the entry and its other fields are not checked. -/
def readPermit (fields : List Word) : Read PermitEntry :=
  if fields.length ≠ 20 then .error .length
  else match fields with
    | a :: b :: c :: d :: conds => do
      let used ← need 1 (flag? a)
      if used then
        let action ← readAction b c
        let count ← need 4 (range? 1 4 d)
        let conditions ← readConditions 0 count conds
        return { used, action, conditions }
      else return .reset
    | _ => .error .length

def PermitAction.words : PermitAction → List Word
  | .rampLower r => [0, enc (r.val + 1)]
  | .rampRaise r => [1, enc (r.val + 1)]
  | .doorReopen d => [2, enc (d.val + 1)]
  | .zoneClear z => [3, enc (z.val + 1)]

/-- A cleared condition holds 0 in each of its four field words (R173). -/
def Condition.words : Condition → List Word
  | .cleared => [0, 0, 0, 0]
  | .door d m => [0, enc (d.val + 1), 0, m.setWidth 16]
  | .ramp r m => [1, enc (r.val + 1), 0, m.setWidth 16]
  | .zone z m => [2, enc (z.val + 1), 0, m.setWidth 16]
  | .pin p a => [3, enc p.val, 0, encFlag a]
  | .node n k a => [4, enc n.val, enc k.val, encFlag a]

def PermitEntry.words (x : PermitEntry) : List Word :=
  encFlag x.used :: x.action.words ++ enc x.conditions.length ::
    (x.conditions.flatMap Condition.words ++ List.replicate (4 * (4 - x.conditions.length)) 0)

/-! ### Remaining times -/

namespace State

/-- A count as a payload word; one that needs more than 16 bits is a free word (log entry 10). -/
def countWord (n : Nat) (s : State) : Word × State :=
  if n < 65536 then (enc n, s) else s.drawFree

/-- A remaining time in units of `unit` µs; one that is no whole number of them is rounded down or up, which way is free
(log entry 9). -/
def timeLeft (unit : Nat) (t : Timer) (s : State) : Word × State :=
  match t with
  | none => (0, s)
  | some n =>
    if n % unit = 0 then countWord (n / unit) s
    else countWord (n / unit + s.drawFree.1.toNat % 2) s.drawFree.2

/-- Refuse a payload that cannot be read; the field reported for a wrong length is free (log entry 8). -/
def misread (s : State) : Misread → Answered
  | .field n => (s, .range n)
  | .length => (s.drawFree.2, ⟨.refusedRange, [s.drawFree.1]⟩)

end State

end Sys2Proof.Machine
end

