-- ==== Sys2Proof/Machine/Ramps.lean ====
section
/-! DEFINITION. The Ramp Unit (chapter 9). The motion itself stands in Machine/Interlock.lean. -/

namespace Sys2Proof.Machine

/-- A motion word as it is handed on (R18): no direction is NONE. -/
structure MotionWord where
  direction : Option Direction
  speed : Speed
  toggle : Bool
  deriving DecidableEq, Repr

/-- The three limits of a ramp. -/
inductive RampLimit
  | stow | land | locked
  deriving DecidableEq, Repr

namespace State

/-! ### Halts, faults and the beacon (R168 to R170) -/

/-- A ramp goes HELD (R168). -/
def holdRamp (r : RampId) (why : RampReason) (s : State) : State := haltWith signal r .held why none s

/-- A ramp enters FAULT (R169). -/
def faultRamp (r : RampId) (why : RampReason) (s : State) : State := haltWith signal r .fault why none s

/-- Withdraw the drive claims of several ramps, then run one grant pass; nothing where none of them stands (log entry 43). -/
def withdrawDrives (rs : List RampId) (s : State) : State :=
  if rs.any fun r => (s.account.find (driveClaimant r)).isSome then
    tell signal (rs.foldl (fun s r => s.modAccount (·.drop (driveClaimant r))) s).settle
  else s

/-- Every ramp that a test selects goes HELD in one halt, so that none of them takes the units another frees: their fields,
their claims, their events, their notices (R168, log entry 43). -/
def holdTogether (which : Ramp → Bool) (why : RampReason) (s : State) : State :=
  let rs := (each 2).filter fun r => which (s.ramp r)
  let s := withdrawDrives rs (rs.foldl (fun s r => haltFields r .held why s) s)
  rs.foldl (fun s r => changed (.ramp r) s) (rs.foldl (fun s r => s.postRamp r) s)

/-- The beacon claim, class MOTION (R170). -/
def claimBeacon (r : RampId) (s : State) : State := claimPin (.rampBeacon r) .motion s

/-- The beacon is claimed when the ramp leaves a quiet state (R170). -/
def leaveQuiet (r : RampId) (s : State) : State := if (s.ramp r).state.quiet then claimBeacon r s else s

/-! ### Starting (R161, R162) -/

/-- A reason set with the state unchanged: RAMP_STATE is posted only when the reason changes (R159, R161). -/
def refuseMotion (r : RampId) (why : RampReason) (s : State) : State :=
  if (s.ramp r).reason == why then s else (s.modRamp r fun x => { x with reason := why }).postRamp r

/-- The first start condition that fails (R161). -/
def startRefusal (s : State) (r : RampId) (dir : Direction) : Option RampReason :=
  if s.alarmed (s.ramp r).cfg.zone then some .zone
  else if (s.forbids (rampAction r dir)).isSome then some .permit
  else if (match dir with
    | .lower => s.landLimit r
    | .raise => s.stowLimit r && s.lockedLimit r) then some .limit
  else none

/-- A start that passes (R162). A change of a subject by the beacon's own grant pass comes while the ramp is still quiet, so its
notice judges no entry of the ramp, and the start goes on (the model's choice, log entry 46). -/
def beginMotion (r : RampId) (dir : Direction) (s : State) : State :=
  let s := leaveQuiet r s
  let s := s.modRamp r fun x =>
    { x with state := .awaitingLoad, reason := .load, startDir := dir, grace := ms s.unit.junction.runGrace,
             timer := none }
  let s := changed (.ramp r) (s.postRamp r)
  if (s.ramp r).state == .awaitingLoad then claimWith signal (driveClaimant r) .motion (s.ramp r).cfg.units s else s

/-- A fresh word asks the ramp to start (R161). -/
def startRamp (r : RampId) (dir : Direction) (s : State) : State :=
  match s.startRefusal r dir with
  | some why => refuseMotion r why s
  | none => beginMotion r dir s

/-! ### Motion words (R159, R160) -/

/-- A fresh word in the current direction of an active ramp (R160). -/
def keepMoving (r : RampId) (newSpeed : Bool) (s : State) : State :=
  let s := s.modRamp r fun x => { x with grace := ms s.unit.junction.runGrace }
  match (s.ramp r).state with
  | .lowering | .raising => if newSpeed then s.loadDuty (.rampValve r) (dutyCounts (s.ramp r)) else s
  | _ => s

/-- A fresh word by the ramp's state (R159). -/
def freshWord (r : RampId) (w : MotionWord) (s : State) : State :=
  let old := s.ramp r
  let s := if w.direction.isSome then s.modRamp r fun x => { x with speed := w.speed } else s
  match old.state, w.direction with
  | .stowed, some .lower | .held, some .lower => startRamp r .lower s
  | .landed, some .raise | .held, some .raise => startRamp r .raise s
  | .stowed, some .raise | .landed, some .lower => refuseMotion r .limit s
  | .stowed, none | .landed, none | .held, none => s
  | _, dir => if dir == some old.direction then keepMoving r (w.speed != old.speed) s else holdRamp r .stopped s

/-- A motion word handed to the Ramp Unit (R159). -/
def takeMotion (r : RampId) (w : MotionWord) (s : State) : State :=
  if w.toggle == (s.ramp r).lastToggle then s
  else
    let s := s.modRamp r fun x => { x with lastToggle := w.toggle }
    match (s.ramp r).state with
    | .disabled | .fault => s
    | _ => freshWord r w s

/-! ### Limits (R163, R165 to R167) -/

/-- HELD by a limit change; a ramp that was quiet claims its beacon (R167, R170). -/
def heldByLimit (r : RampId) (s : State) : State := holdRamp r .limit (leaveQuiet r s)

/-- What a change of one limit does in a state that takes it (R163, R166, R167). -/
def limitMove (r : RampId) (which : RampLimit) (active : Bool) (s : State) : State :=
  match (s.ramp r).state, which, active with
  | .stowed, .stow, false | .stowed, .locked, false | .landed, .land, false => heldByLimit r s
  | .held, .land, true => if s.stowLimit r then s else restWith signal r .landed s
  | .held, .stow, true | .held, .locked, true =>
    if !(s.ramp r).lockWanted && s.stowLimit r && s.lockedLimit r then restWith signal r .stowed s else s
  | .unlocking, .locked, false => travelWith signal r .lower s
  | .lowering, .land, true => restWith signal r .landed s
  | .lowering, .stow, true => holdRamp r .limit s
  | .raising, .stow, true => lockingWith signal r s
  | .raising, .land, true => holdRamp r .limit s
  | .locking, .locked, true => restWith signal r .stowed s
  | .locking, .stow, false => holdRamp r .limit s
  | _, _, _ => s

/-- The stow limit became active: the position is set to 0 in every state (R165). -/
def homePosition (r : RampId) (s : State) : State :=
  let a := s.setCount (.rampEncoder r) 0
  if a.2 then slowPoint r a.1 else a.1

/-- A change of a ramp's limit; both limits active is a fault in every state in service (R167, log entry 20). -/
def rampLimitChange (r : RampId) (which : RampLimit) (active : Bool) (s : State) : State :=
  let s := if which == .stow && active then homePosition r s else s
  match (s.ramp r).state with
  | .disabled | .fault => s
  | _ =>
    if s.stowLimit r && s.landLimit r then faultRamp r .limits (leaveQuiet r s)
    else limitMove r which active s

/-! ### Service (R155 to R158) -/

/-- Every requirement of R156 is present. -/
def rampReady (s : State) (r : RampId) : Bool :=
  [PinFunction.rampStowLimit r, .rampLandLimit r, .rampLockedLimit r, .rampEncoder r, .rampLowerValve r,
    .rampRaiseValve r, .rampLock r].all (fun f => (s.pinOf f).isSome) &&
  [Binding.rampValve r, .rampEncoder r, .rampSpeed r].all fun b => (s.chanOf b).isSome

/-- The state a ramp's limits give (R157), without claims and events. -/
def deriveFields (r : RampId) (s : State) : State :=
  let stowed := s.lockedLimit r
  s.modRamp r fun x =>
    let x := { x with grace := none, timer := none, slowMark := false, reason := .none }
    match s.stowLimit r, s.landLimit r with
    | true, true => { x with state := .fault, reason := .limits }
    | true, false => if stowed then { x with state := .stowed, lockWanted := false } else { x with state := .held }
    | false, true => { x with state := .landed }
    | false, false => { x with state := .held }

/-- The beacon of a derived state: claimed in HELD and FAULT, withdrawn in the quiet states (R157, R170). -/
def beaconByState (r : RampId) (s : State) : State :=
  if (s.ramp r).state.quiet then withdrawPin (.rampBeacon r) s else claimBeacon r s

/-- A ramp is derived from its limits (R157). -/
def deriveRamp (r : RampId) (s : State) : State :=
  let t := (beaconByState r (deriveFields r s)).postRamp r
  if (t.ramp r).state != (s.ramp r).state then changed (.ramp r) t else t

/-- A ramp leaves service (R158). -/
def leaveRamp (r : RampId) (why : RampReason) (s : State) : State :=
  let s := stopTravel r s
  let s := s.modRamp r fun x =>
    { x with state := .disabled, reason := why, grace := none, timer := none, lockWanted := false }
  let s := withdrawPin (.rampBeacon r) (withdraw (driveClaimant r) s)
  changed (.ramp r) (s.postRamp r)

/-- A DISABLED ramp enters service, or stays DISABLED with reason PINS (R155, R158). -/
def tryRamp (r : RampId) (s : State) : State :=
  if s.rampReady r then deriveRamp r s else s.modRamp r fun x => { x with reason := .pins }

/-- An accepted RAMP write (R155); a DISABLED ramp whose enabled field clears has the reason DISABLED (R171, log entry 24). -/
def writeRamp (r : RampId) (new : RampCfg) (s : State) : State :=
  let old := s.ramp r
  let s := s.modRamp r fun x => { x with cfg := new }
  if new = old.cfg then s
  else if old.state == .disabled then
    if old.cfg.enabled && !new.enabled then s.modRamp r fun x => { x with reason := .disabled }
    else if !old.cfg.enabled && new.enabled && !old.cmdDisabled then tryRamp r s
    else s
  else if !new.enabled then leaveRamp r .disabled s
  else if new.zone != old.cfg.zone && old.state.driven && s.alarmed new.zone then holdRamp r .zone s
  else s

/-- A pin or a binding of the ramp came or went (R156). -/
def rampRequirements (r : RampId) (s : State) : State :=
  let x := s.ramp r
  if x.state == .disabled then
    if x.cfg.enabled && !x.cmdDisabled && x.reason == .pins && s.rampReady r then deriveRamp r s else s
  else if s.rampReady r then s
  else leaveRamp r .pins s

/-- A pin gained the RAMP_BEACON function (R170). -/
def beaconGained (r : RampId) (s : State) : State := if (s.ramp r).state.quiet then s else claimBeacon r s

/-- DISABLE (R158); a ramp DISABLED already, with reason PINS among them, takes the reason DISABLED without an event (log entry
39). -/
def disableRamp (r : RampId) (s : State) : State :=
  let t := s.modRamp r fun x => { x with cmdDisabled := true }
  if (s.ramp r).state == .disabled then t.modRamp r fun x => { x with reason := .disabled } else leaveRamp r .disabled t

/-- ENABLE; none where it is refused (R158). -/
def enableRamp (r : RampId) (s : State) : Option State :=
  if (s.ramp r).state == .disabled then
    if (s.ramp r).cfg.enabled then some (tryRamp r (s.modRamp r fun x => { x with cmdDisabled := false })) else none
  else some s

/-- STOP (R168). -/
def stopRamp (r : RampId) (s : State) : State := if (s.ramp r).state.isActive then holdRamp r .stopped s else s

/-! ### Notices and expiries -/

/-- An overspeed or stall notice of the RAMP_SPEED channel (R165). -/
def speedFault (r : RampId) (why : RampReason) (s : State) : State :=
  match (s.ramp r).state with
  | .lowering | .raising => faultRamp r why s
  | _ => s

/-- The run-grace timer (R160). -/
def graceExpired (r : RampId) (s : State) : State :=
  if (s.ramp r).grace.isSome && (s.ramp r).state.isActive then holdRamp r .runGrace s else s

/-- The unlock timer (R163). -/
def unlockExpired (r : RampId) (s : State) : State :=
  if (s.ramp r).timer.isSome && (s.ramp r).state == .unlocking then
    if s.lockedLimit r then faultRamp r .unlockTimeout s else travelWith signal r .lower s
  else s

/-- The lock timer (R166). -/
def lockExpired (r : RampId) (s : State) : State :=
  if (s.ramp r).timer.isSome && (s.ramp r).state == .locking then
    if s.lockedLimit r then restWith signal r .stowed s else faultRamp r .lockTimeout s
  else s

/-- The zone of a driven ramp enters ALARM or EVACUATE (R128). -/
def alarmRamps (z : ZoneId) (s : State) : State :=
  holdTogether (fun x => x.cfg.enabled && x.cfg.zone == z && x.state.driven) .zone s

/-- The part enters LOCAL (R15). -/
def trunkRamps (s : State) : State := holdTogether (·.state.isActive) .trunk s

/-! ### RESTART (R172) -/

/-- The fields of a ramp; it is not driven from here on (log entry 23). -/
def restartRampFields (s : State) (r : RampId) : State :=
  match (s.ramp r).state with
  | .disabled | .fault => s.modRamp r fun x => { x with grace := none, timer := none, slowMark := false }
  | _ => deriveFields r s

/-- The beacon claim of a ramp that is not quiet (R170). -/
def restartBeacon (s : State) (r : RampId) : State := if (s.ramp r).state.quiet then s else claimBeacon r s

/-- RAMP_STATE is posted if the ramp's state differs from that before the RESTART. -/
def restartRamp (before : RampId → RampState) (s : State) (r : RampId) : State :=
  if (s.ramp r).state != before r then s.postRamp r else s

end State

end Sys2Proof.Machine
end

