-- ==== Sys2Proof/Machine/Zones.lean ====
section
/-! DEFINITION. The Zone Unit (chapter 7). -/

namespace Sys2Proof.Machine

/-- Why a position stopped being present (R61). -/
inductive AwayCause
  | absent | contention | disable | edit
  deriving DecidableEq, Repr

/-- A notice about a position (R61). -/
inductive NodeNotice
  | present
  | notPresent (why : AwayCause)
  | fixedChanged
  deriving DecidableEq, Repr

namespace State

/-! ### Transitions and their fan-outs (R117, R128 to R130) -/

/-- Fan-out on entering ALARM or EVACUATE (R128). The refresh stands before the door-warning call and the alarm call, either
of whose full transfers carries the new colour instead (R194). The Permit Table is told by `moveZone`. -/
def raiseAlarm (z : ZoneId) (s : State) : State :=
  let s := alarmDoors z (alarmRamps z (rasterRefresh z s))
  let s := postInternal (s.alarmCall z ((s.zone z).state == .evacuate)) z s
  claimPin (.zoneBeacon z) .fire s

/-- Fan-out from ALARM to EVACUATE (R129). -/
def raiseEvacuation (z : ZoneId) (s : State) : State := postInternal (s.alarmCall z true) z (rasterRefresh z s)

/-- Fan-out of a return to NORMAL (R130). -/
def standDown (z : ZoneId) (s : State) : State :=
  withdrawPin (.zoneBeacon z) (cancelInternal (alarmTag z) (rasterRefresh z s))

/-- A zone changes state: ZONE_STATE, the fan-out, and last the Permit Table (R117, R177). -/
def moveZone (z : ZoneId) (dest : ZoneState) (cause : ZoneCause) (s : State) : State :=
  let was := s.alarmed z
  let s := (s.modZone z fun x => { x with state := dest }).postZone z cause
  let s := match was, s.alarmed z with
    | false, true => raiseAlarm z s
    | true, true => raiseEvacuation z s
    | true, false => standDown z s
    | false, false => s
  changed (.zone z) s

/-! ### The window (R118 to R121) -/

/-- A window is stopped, the compare disarmed and the count set to 0 (R119). -/
def stopWindow (z : ZoneId) (s : State) : State :=
  (((s.modZone z fun x => { x with window := none }).disarm (.zoneDetector z)).setCount (.zoneDetector z) 0).1

/-- A zone goes to ALARM or EVACUATE, out of its window if it has one (R119, R122, R125). -/
def alarmZone (z : ZoneId) (dest : ZoneState) (cause : ZoneCause) (s : State) : State :=
  moveZone z dest cause (if (s.zone z).state == .preAlarm then stopWindow z s else s)

/-- A window starts with a count, the compare armed with the threshold; true when it is reached at the arming (R118). -/
def startWindow (z : ZoneId) (count : Nat) (s : State) : State × Bool :=
  let s := s.modZone z fun x => { x with window := ms x.cfg.window }
  ((s.disarm (.zoneDetector z)).setCount (.zoneDetector z) count).1.armCompare (.zoneDetector z) (s.zone z).cfg.threshold

/-- A zone in NORMAL takes a first pulse (R118, R121). -/
def firstPulse (z : ZoneId) (count : Nat) (s : State) : State :=
  if (s.zone z).cfg.threshold = 1 || (s.chanOf (.zoneDetector z)).isNone then alarmZone z .alarm .localSource s
  else moveZone z .preAlarm .localSource (startWindow z count s).1

/-- An active edge of the DETECTOR pin, before its channel counts it (R118). -/
def detectorEdge (z : ZoneId) (s : State) : State :=
  match (s.zone z).state with
  | .normal => firstPulse z 0 s
  | .preAlarm => if (s.chanOf (.zoneDetector z)).isNone then alarmZone z .alarm .localSource s else s
  | _ => s

/-- A DETECTOR pin whose first level is active (R121); a zone in PRE_ALARM, whose window runs on, takes no notice of it (log
entry 37). -/
def detectorFirst (z : ZoneId) (s : State) : State := if (s.zone z).state == .normal then firstPulse z 1 s else s

/-- NORMAL and PRE_ALARM take a call point or a sensor to ALARM (R122, R123). -/
def localAlarm (z : ZoneId) (s : State) : State :=
  match (s.zone z).state with
  | .normal | .preAlarm => alarmZone z .alarm .localSource s
  | _ => s

/-- The compare-reached notice of the zone's channel (R119). -/
def thresholdReached (z : ZoneId) (s : State) : State :=
  if (s.zone z).state == .preAlarm then alarmZone z .alarm .localSource s else s

/-- The zone gains a ZONE_DETECTOR binding (R119). -/
def detectorBound (z : ZoneId) (s : State) : State :=
  if (s.zone z).state == .preAlarm then
    let a := (s.setCount (.zoneDetector z) 1).1.armCompare (.zoneDetector z) (s.zone z).cfg.threshold
    if a.2 then thresholdReached z a.1 else a.1
  else s

/-- The window timer (R120). -/
def windowExpired (z : ZoneId) (s : State) : State :=
  if (s.zone z).window.isSome && (s.zone z).state == .preAlarm then
    let s := stopWindow z s
    moveZone z (if s.inputActive (.detector z) then .alarm else .normal) .localSource s
  else s

/-- A right SENSOR reply of a position of the zone: inputs 8 and 9 are the detector and the call point (R123, 12.3). -/
def sensorReply (z : ZoneId) (contents : Word) (s : State) : State :=
  if contents.getLsbD 8 || contents.getLsbD 9 then localAlarm z s else s

/-! ### The fault flag (R124) -/

/-- The enabled positions of a zone that a test selects. -/
def zonePositions (s : State) (z : ZoneId) (f : Position → Bool) : List PosId :=
  (each 64).filter fun n =>
    (s.position n).cfg.enabled && (s.position n).cfg.zone == some z && f (s.position n)

/-- Every enabled fixed position of the zone is PRESENT. -/
def fixedPresent (s : State) (z : ZoneId) : Bool :=
  (s.zonePositions z fun p => p.cfg.fixed).all fun n => (s.position n).presence == .present

/-- The flag of a zone that has just become configured; of the SENSOR positions on a CONTENDED branch the enabled ones count
(log entry 38). -/
def initialFault (s : State) (z : ZoneId) : Bool :=
  (s.zonePositions z fun p => p.cfg.fixed && p.presence == .absent) != [] ||
    (s.zonePositions z fun p => p.cfg.cls == .sensor).any fun n => (s.branch (branchOf n)).state == .contended

/-- A notice for a position of the zone, with the record under which it is given. -/
def zoneNotice (z : ZoneId) (fixed : Bool) (cls : NodeClass) (n : NodeNotice) (s : State) : State :=
  if (s.zone z).state == .unused then s
  else
    let judged := s.modZone z fun x => { x with fault := x.fault && !s.fixedPresent z }
    match n with
    | .notPresent .absent => if fixed then s.modZone z fun x => { x with fault := true } else s
    | .notPresent .contention => if cls == .sensor then s.modZone z fun x => { x with fault := true } else s
    | .notPresent .disable => s
    | .present | .fixedChanged | .notPresent .edit => judged

/-! ### Writes (R116) -/

/-- An accepted ZONE write. -/
def writeZone (z : ZoneId) (new : ZoneCfg) (s : State) : State :=
  let old := (s.zone z).cfg
  let s := s.modZone z fun x => { x with cfg := new }
  if new = old then s
  else if new.configured && (s.zone z).state == .unused then
    let s := moveZone z .normal .command s
    let s := s.modZone z fun x => { x with fault := s.initialFault z }
    if s.sourceActive z then moveZone z .alarm .command s else s
  else if !new.configured && (s.zone z).state != .unused then
    let s := (stopWindow z s).modZone z fun x => { x with state := .unused, fault := false }
    changed (.zone z) (zoneRetired z (s.postZone z .command))
  else if new.autoClose && !old.autoClose && s.alarmed z then alarmDoors z s
  else s

/-! ### Commands (R125 to R127) -/

/-- SET_ALARM (R125). -/
def setAlarmZone (z : ZoneId) (s : State) : Answered :=
  match (s.zone z).state with
  | .normal | .preAlarm | .isolated => (alarmZone z .alarm .command s, .done)
  | .alarm => (s, .done)
  | .evacuate | .unused => (s, .state)

/-- EVACUATE (R125). -/
def evacuateZone (z : ZoneId) (s : State) : Answered :=
  match (s.zone z).state with
  | .normal | .preAlarm | .alarm | .isolated => (alarmZone z .evacuate .command s, .done)
  | .evacuate => (s, .done)
  | .unused => (s, .state)

/-- CLEAR (R126). -/
def clearZone (z : ZoneId) (s : State) : Answered :=
  match (s.zone z).state with
  | .preAlarm | .alarm | .evacuate =>
    if s.sourceActive z then (s, .state)
    else match s.forbids (.zoneClear z) with
      | some k => (s, .permit k)
      | none => (moveZone z .normal .command (stopWindow z s), .done)
  | .normal | .isolated | .unused => (s, .state)

/-- ISOLATE (R127). -/
def isolateZone (z : ZoneId) (s : State) : Answered :=
  match (s.zone z).state with
  | .normal | .preAlarm => (moveZone z .isolated .command (stopWindow z s), .done)
  | _ => (s, .state)

/-- RESTORE (R127). -/
def restoreZone (z : ZoneId) (s : State) : Answered :=
  match (s.zone z).state with
  | .isolated => (moveZone z (if s.sourceActive z then .alarm else .normal) .command s, .done)
  | _ => (s, .state)

/-! ### RESTART (R131) -/

/-- A PRE_ALARM zone is judged again: a window with count 1 while its detector is active, in which a threshold of 1 is reached
at the arming; otherwise NORMAL. -/
def restartWindow (z : ZoneId) (s : State) : State :=
  if s.inputActive (.detector z) then
    let a := startWindow z 1 s
    if a.2 then thresholdReached z a.1 else a.1
  else moveZone z .normal .restart s

/-- A zone in alarm posts its internal alarm call again and claims its beacon again. -/
def repeatAlarm (z : ZoneId) (s : State) : State :=
  claimPin (.zoneBeacon z) .fire (postInternal (s.alarmCall z ((s.zone z).state == .evacuate)) z s)

/-- RESTART of one zone. -/
def restartZone (s : State) (z : ZoneId) : State :=
  let s := s.modZone z fun x => { x with window := none }
  if (s.zone z).state == .preAlarm then restartWindow z s else if s.alarmed z then repeatAlarm z s else s

/-- RESTART of the Zone Unit, in ascending zone number, calls and beacon claims among it (R94). -/
def restartZones (s : State) : State := (each 8).foldl restartZone s

end State

end Sys2Proof.Machine
end

