-- ==== Sys2Proof/Machine/Lines.lean ====
section
/-! DEFINITION. The Line Unit: input levels, their delivery, PIN writes and OUTPUT_SET (5.1 to 5.3). -/

namespace Sys2Proof.Machine

/-- The door a pin function serves. -/
def PinFunction.door? : PinFunction → Option DoorId
  | .doorHoldback d | .doorRelease d | .doorOpenLimit d | .doorClosedLimit d | .doorHoldButton d => some d
  | _ => none

/-- The ramp a required pin function serves (R156). -/
def PinFunction.ramp? : PinFunction → Option RampId
  | .rampLowerValve r | .rampRaiseValve r | .rampLock r | .rampStowLimit r | .rampLandLimit r | .rampLockedLimit r
  | .rampEncoder r => some r
  | _ => none

namespace State

/-! ### Delivery (R80) -/

/-- A RAMP_SPEED channel takes an edge and judges the interval (R106). -/
def captureEdge (r : RampId) (s : State) : State :=
  match s.chanOf (.rampSpeed r) with
  | some c =>
    match (s.channel c).run with
    | .capturing w =>
      let s := s.modChannel c fun x => { x with run := .capturing w.edge.1 }
      if w.edge.2 then speedFault r .overspeed s else s
    | _ => s
  | none => s

/-- An active edge of a RAMP_ENCODER pin: first the encoder channel, then the speed channel (R103). -/
def encoderEdge (r : RampId) (s : State) : State :=
  let a := s.actCount (.rampEncoder r) CountRun.encoderEdge
  captureEdge r (if a.2 then slowPoint r a.1 else a.1)

/-- An active edge of a DETECTOR pin: first the zone, then its channel (R103, R118). -/
def detectorPulse (z : ZoneId) (s : State) : State :=
  let a := (detectorEdge z s).actCount (.zoneDetector z) CountRun.detectorEdge
  if a.2 then thresholdReached z a.1 else a.1

/-- A change of a pin's active state is handed to the block that takes its function (R80 step 2). -/
def ownerTakes (f : PinFunction) (active : Bool) (s : State) : State :=
  match f with
  | .doorOpenLimit d => doorOp d (openChange d active) s
  | .doorClosedLimit d => doorOp d (closedChange d active) s
  | .doorHoldButton d => if active then doorOp d (holdPress d) s else s
  | .rampStowLimit r => rampLimitChange r .stow active s
  | .rampLandLimit r => rampLimitChange r .land active s
  | .rampLockedLimit r => rampLimitChange r .locked active s
  | .rampEncoder r => if active then encoderEdge r s else s
  | .detector z => if active then detectorPulse z s else s
  | .callPoint z => if active then localAlarm z s else s
  | _ => s

/-- A change of an input pin's active state is delivered (R80). -/
def deliver (p : PinId) (s : State) : State :=
  let x := s.pin p
  let s := if x.cfg.report then s.post .inputChange p.val (encFlag x.active) else s
  changed (.pin p) (ownerTakes x.cfg.function x.active s)

/-- The filtered level takes the raw level, and the change is delivered (R79). -/
def takeLevel (p : PinId) (s : State) : State :=
  let moved := (s.pin p).raw != (s.pin p).filtered
  let s := s.modPin p fun x => { x with filtered := x.raw, filterTimer := none }
  if moved then deliver p s else s

/-- The raw level of a pin changes (R79); the raw levels of other pins than inputs are seen by no one. -/
def rawChange (p : PinId) (level : Bool) (s : State) : State :=
  let old := s.pin p
  if level == old.raw then s
  else
    let s := s.modPin p fun x => { x with raw := level }
    if !old.cfg.function.isInput then s
    else if level == old.filtered then s.modPin p fun x => { x with filterTimer := none }
    else if old.cfg.filter = 0 then takeLevel p s
    else s.modPin p fun x => { x with filterTimer := ms x.cfg.filter }

/-- The filter timer expires (R79). -/
def filterExpired (p : PinId) (s : State) : State := if (s.pin p).filterTimer.isSome then takeLevel p s else s

/-! ### PIN writes (R77, R78, R81) -/

/-- Another pin holds the function and index (R77). -/
def functionTaken (s : State) (p : PinId) (f : PinFunction) : Bool :=
  f != .unused && f != .generalIn && f != .generalOut &&
    (each 32).any fun q => q != p && (s.pin q).cfg.function == f

/-- A claim of the pin stands in either list. -/
def claimStands (s : State) (p : PinId) : Bool := (s.account.find (pinClaimant p)).isSome

/-- The old owner of a function is told that it has left the pin (R78). -/
def ownerLost (f : PinFunction) (before : DoorId → Limits) (s : State) : State :=
  match f.door?, f.ramp? with
  | some d, _ => doorPins d (before d) s
  | none, some r => rampRequirements r s
  | none, none => s

/-- The new owner of a function is told of the pin and, for an input, of its first level (R78, R81). -/
def ownerGained (f : PinFunction) (active : Bool) (before : DoorId → Limits) (s : State) : State :=
  match f with
  | .rampStowLimit r => rampRequirements r (if active then homePosition r s else s)
  | .rampBeacon r => beaconGained r s
  | .detector z => if active then detectorFirst z s else s
  | .callPoint z => if active then localAlarm z s else s
  | _ => ownerLost f before s

/-- A pin changes its function (R78). -/
def moveFunction (p : PinId) (new : PinCfg) (s : State) : State :=
  let old := (s.pin p).cfg.function
  let before := s.limitsOf
  let s := s.modPin p fun x =>
    { x with cfg := new, setting := .off, filterTimer := none,
             filtered := if new.function.isInput then x.raw else x.filtered }
  let s := ownerLost old before (withdraw (pinClaimant p) s)
  let sameDoor := old.door?.isSome && old.door? == new.function.door?
  let s := if sameDoor then s else ownerGained new.function (s.pin p).active before s
  if old.isInput || new.function.isInput then changed (.pin p) s else s

/-- An accepted PIN write (R78). -/
def writePin (p : PinId) (new : PinCfg) (s : State) : State :=
  let old := (s.pin p).cfg
  if new = old then s
  else if new.function != old.function then moveFunction p new s
  else
    let s := s.modPin p fun x => { x with cfg := new }
    if new.polarity != old.polarity && new.function.isInput then deliver p s else s

/-! ### OUTPUT_SET (R84) -/

/-- A flash setting whose pair is not bound. -/
def flashUnbound (s : State) : OutputSetting → Bool
  | .flash1 => (s.chanOf .flash1).isNone
  | .flash2 => (s.chanOf .flash2).isNone
  | _ => false

/-- An accepted setting. -/
def applySetting (p : PinId) (dest : OutputSetting) (s : State) : State :=
  if (s.pin p).setting == dest then s
  else
    let s := s.modPin p fun x => { x with setting := dest }
    if dest == .off then withdraw (pinClaimant p) s
    else if s.claimStands p then s
    else claimWith signal (pinClaimant p) .service (s.pin p).cfg.units s

/-- OUTPUT_SET on a pin in range; a pin of another function conflicts on field 1, the pin (log entry 15). -/
def setOutput (p : PinId) (dest : OutputSetting) (s : State) : Answered :=
  if (s.pin p).cfg.function != .generalOut then (s, .conflict 1)
  else if s.flashUnbound dest then (s, .state)
  else (applySetting p dest s, .done)

/-! ### RESTART (R94) -/

/-- The claims that RESTART withdraws: every drive, release, chime and beacon claim. -/
def restartDrops (s : State) (c : Claim) : Bool :=
  match claimantPin c.claimant with
  | none => true
  | some p => match (s.pin p).cfg.function with
    | .doorRelease _ | .chime _ | .rampBeacon _ | .zoneBeacon _ => true
    | _ => false

/-- RESTART of the Line Unit: the claims are withdrawn, and the grant pass runs; no owner is waiting to be told, since the
blocks derive themselves afterwards (log entry 23). -/
def restartLines (s : State) : State :=
  let keep (c : Claim) : Bool := !s.restartDrops c
  (s.modAccount fun a => { a with granted := a.granted.filter keep, pending := a.pending.filter keep }).settle.1

end State

end Sys2Proof.Machine
end

