-- ==== Sys2Proof/Machine/Pool.lean ====
section
/-! DEFINITION. The Channel Pool: CHANNEL writes, the events of its pairs and captures, and the chime player (6.1, 6.3 to 6.7).

The odd partner of a bound pair is stored at the hard-reset values it will have when the pair is unbound (R96). -/

namespace Sys2Proof.Machine

/-- The even channel of a channel's pair. -/
def masterOf (c : ChanId) : ChanId := ⟨c.val - c.val % 2, by omega⟩

/-- The odd channel of a channel's pair. -/
def partnerOf (c : ChanId) : ChanId := ⟨c.val - c.val % 2 + 1, by omega⟩

def pairMaster (k : PairId) : ChanId := ⟨2 * k.val, by omega⟩

/-- The ramp a binding serves. -/
def Binding.ramp? : Binding → Option RampId
  | .rampValve r | .rampEncoder r | .rampSpeed r => some r
  | _ => Option.none

/-- What a channel does once its binding is accepted (R97, R108). -/
def ChannelCfg.freshRun (x : ChannelCfg) : ChannelRun :=
  match x.binding with
  | .rampEncoder _ | .zoneDetector _ => .counting .fresh
  | .flash1 | .flash2 => .pwm (.start x.period x.duty)
  | _ => .stopped

namespace State

/-- The channel is the odd partner of a bound pair (R96). -/
def isSlave (s : State) (c : ChanId) : Bool := c.val % 2 == 1 && (s.channel (masterOf c)).cfg.binding.isPair

/-- The record that governs a channel: its own, or its master's for the odd partner of a pair (R96). -/
def channelRecord (s : State) (c : ChanId) : ChannelCfg :=
  if s.isSlave c then (s.channel (masterOf c)).cfg else (s.channel c).cfg

/-- The field on which a binding conflicts (R96). -/
def channelConflict (s : State) (c : ChanId) (new : ChannelCfg) : Option Nat :=
  let pair := new.binding.isPair
  let held := new.binding != .none && (each 12).any fun e => e != c && (s.channel e).cfg.binding == new.binding
  let partnered := c.val % 2 == 0 && (s.channel (partnerOf c)).cfg.binding != .none
  if (pair && c.val % 2 == 1) || s.isSlave c || (pair && partnered) || held then some 1
  else match new.binding with
    | .chime | .rampSpeed _ => if new.clock == .milli then some 3 else none
    | _ => Option.none

/-- A changed count clock and changed presets under the same binding (R98): presets are buffered by a FLASH pair, and a new
clock restarts a running pair at a period start. A write that changes both buffers first, so that the new presets come into
force at that period start (log entry 36). -/
def retime (old new : ChannelCfg) (r : ChannelRun) : ChannelRun :=
  match r with
  | .pwm x =>
    let flash := new.binding == .flash1 || new.binding == .flash2
    let x := if flash && (new.period != old.period || new.duty != old.duty) then
        { x with bufPeriod := some (period1 new.period), bufDuty := some new.duty }
      else x
    .pwm (if new.clock != old.clock then x.periodStart else x)
  | _ => r

/-- The user of a binding is told of its loss or gain (R98). -/
def bindingMoved (b : Binding) (s : State) : State :=
  match b.ramp? with
  | some r => rampRequirements r s
  | none => s

/-- A channel takes a new binding; a pair binding leaves the odd partner at the record it has when the pair is unbound
(R96, R97). -/
def bindChannel (c : ChanId) (new : ChannelCfg) (s : State) : State :=
  let s := s.modChannel c fun _ => ⟨new, new.freshRun⟩
  if new.binding.isPair then s.modChannel (partnerOf c) fun _ => .reset else s

/-- An accepted CHANNEL write (R98). -/
def writeChannel (c : ChanId) (new : ChannelCfg) (s : State) : State :=
  let old := (s.channel c).cfg
  if new = old then s
  else if new.binding != old.binding then
    let s := bindingMoved old.binding (bindChannel c new s)
    match new.binding with
    | .zoneDetector z => detectorBound z s
    | b => bindingMoved b s
  else s.modChannel c fun x => ⟨new, retime old new x.run⟩

/-- A period start of a running pair (R100). -/
def pairPeriod (k : PairId) (s : State) : State :=
  s.modChannel (pairMaster k) fun x => match x.run with
    | .pwm p => { x with run := .pwm p.periodStart }
    | _ => x

/-- The count of a running pair reaches D (R100). -/
def pairDutyEnd (k : PairId) (s : State) : State :=
  s.modChannel (pairMaster k) fun x => match x.run with
    | .pwm p => { x with run := .pwm p.dutyEnd }
    | _ => x

/-- The count of a running capture reaches its stall count (R107). -/
def stallReached (c : ChanId) (s : State) : State :=
  match (s.channel c).run, (s.channel c).cfg.binding with
  | .capturing w, .rampSpeed r =>
    if w.stalled then s
    else speedFault r .stall
      (s.modChannel c fun x => { x with run := .capturing { w with count := w.stallCount, stalled := true } })
  | _, _ => s

/-- The player's timer expires in ON (R110). -/
def burstOver (s : State) : State :=
  if s.player.state == .on && s.player.timer.isSome then
    let s := (s.stopChannel .chime).modPlayer fun p => { p with played := p.played + 1 }
    let e := s.chime s.player.pattern
    if e.repetitions ≤ s.player.played then
      patternEnded (s.modPlayer fun p => { p with state := .idle, timer := none })
    else s.modPlayer fun p => { p with state := .off, timer := ms e.offTime }
  else s

/-- The player's timer expires in OFF (R110). -/
def pauseOver (s : State) : State :=
  if s.player.state == .off && s.player.timer.isSome then playerOn s else s

/-- What RESTART leaves of a channel's run (R114). -/
def restartRun (x : Channel) : ChannelRun :=
  match x.cfg.binding, x.run with
  | .rampValve _, _ | .chime, _ | .rampSpeed _, _ => .stopped
  | .zoneDetector _, .counting k => .counting { k with count := 0, armed := false }
  | .rampEncoder _, .counting k => .counting { k with armed := false }
  | _, r => r

/-- RESTART of the Channel Pool (R114). -/
def restartPool (s : State) : State :=
  let s := (each 12).foldl (fun s c => s.modChannel c fun x => { x with run := restartRun x }) s
  s.modPlayer fun p => { p with state := .idle, timer := none }

end State

end Sys2Proof.Machine
end

