-- ==== Sys2Proof/Machine/Routes.lean ====
section
/-! DEFINITION. The Route Table (chapter 4). -/

namespace Sys2Proof.Machine

/-- Reply item qualities, by their codes (12.1). -/
inductive Quality
  | fresh | stale | absent | void
  deriving DecidableEq, Repr

/-- A reply item (R72). -/
structure ReplyItem where
  quality : Quality
  slot : SlotId
  value : Word
  deriving DecidableEq, Repr

/-- The position a valid entry names (R64). -/
def RouteEntry.names (x : RouteEntry) : Option PosId := if x.valid then x.place.map (posIndex x.branch) else none

namespace State

/-- Another valid entry names a position (R65). -/
def routeTaken (s : State) (i : SlotId) (n : PosId) : Bool :=
  (each 64).any fun j => j != i && (s.slot j).entry.names == some n

/-- Store a route entry; a changed validity, branch or position clears the holding (R66). -/
def storeRoute (i : SlotId) (e : RouteEntry) (s : State) : State :=
  s.modSlot i fun x =>
    if e.valid != x.entry.valid || e.branch != x.entry.branch || e.place != x.entry.place then
      { x with entry := e, holding := none, fresh := false }
    else { x with entry := e }

/-- A ROUTE write with its fields in range (R65, R66). -/
def writeRoute (i : SlotId) (f : RouteFields) (s : State) : Answered :=
  if !f.valid then (storeRoute i ⟨false, f.branch, none, f.replyWanted⟩ s, .done)
  else match s.placeOfLogical f.branch f.logical with
    | none => (s, .range 3)
    | some p =>
      if (s.position (posIndex f.branch p)).cfg.cls != .general || s.routeTaken i (posIndex f.branch p) then
        (s, .conflict 3)
      else (storeRoute i ⟨true, f.branch, some p, f.replyWanted⟩ s, .done)

/-- A slot word: the pending word of the named position (R68), or a VOID indication (R69). -/
def slotWord (i : SlotId) (v : Word) (s : State) : State :=
  match (s.slot i).entry.names with
  | some n => s.modPosition n fun x => { x with pendingWord := some v }
  | none => s.modSlot i fun x => { x with void := some v }

/-- The slot whose valid entry names a position. -/
def slotOf (s : State) (n : PosId) : Option SlotId := (each 64).find? fun i => (s.slot i).entry.names == some n

/-- A right reply of a GENERAL position is held by its entry (R70). -/
def holdReply (n : PosId) (v : Word) (s : State) : State :=
  match s.slotOf n with
  | some i => s.modSlot i fun x => { x with holding := some v, fresh := true }
  | none => s

/-- Void the entries that name a position; the count is the payload of the POSITION write (R74). -/
def voidRoutes (n : PosId) (s : State) : State × Nat :=
  let hit := (each 64).filter fun i => (s.slot i).entry.names == some n
  (hit.foldl (fun s i =>
      s.modSlot i fun x =>
        { x with entry := { x.entry with valid := false, place := none }, holding := none, fresh := false }) s,
   hit.length)

/-! ### Reply items (R71 to R73) -/

/-- The node of a routed position is reported ABSENT (R72). -/
def routeAbsent (s : State) (n : PosId) : Bool :=
  (s.position n).presence == .absent ||
    match (s.branch (branchOf n)).state with
    | .contended | .disabled => true
    | _ => false

/-- The reply item of a slot, if it has one (R71, R72). -/
def replyItem (s : State) (i : SlotId) : Option ReplyItem :=
  let x := s.slot i
  match x.void, x.entry.names with
  | some v, _ => some ⟨.void, i, v⟩
  | none, some n =>
    if !x.entry.replyWanted then none
    else if s.routeAbsent n then some ⟨.absent, i, x.holding.getD 0⟩
    else some ⟨if x.fresh then .fresh else .stale, i, x.holding.getD 0⟩
  | none, none => none

/-- The reply item list. -/
def replyItems (s : State) : List ReplyItem := (each 64).filterMap s.replyItem

/-- Building an item is a report (R73). -/
def reportItem (s : State) (x : ReplyItem) : State :=
  s.modSlot x.slot fun y =>
    match x.quality with
    | .void => { y with void := none }
    | .fresh | .absent => { y with fresh := false }
    | .stale => y

/-- RESTART of the Route Table (R75). -/
def restartRoutes (s : State) : State :=
  (each 64).foldl (fun s i => s.modSlot i fun x => { x with holding := none, fresh := false, void := none }) s

end State

end Sys2Proof.Machine
end

