-- ==== Sys2Proof/Machine/Wire.lean ====
section
/-! DEFINITION. Words on the lines: the CRC of R2, the branch words of 12.3, and the timing of a burst (R51). -/

namespace Sys2Proof.Machine

/-- One bit through the CRC-16 with generator x^16+x^12+x^5+1 (R2). -/
def crcBit (c : BitVec 16) (b : Bool) : BitVec 16 := (c <<< 1) ^^^ (if c.msb != b then 0x1021 else 0)

/-- A word through the CRC, most significant bit first. -/
def crcWord {n : Nat} (c : BitVec 16) (w : BitVec n) : BitVec 16 :=
  (List.range n).foldl (fun c i => crcBit c (w.getMsbD i)) c

/-- The CRC-16 of a list of words, from an initial value of all ones (R2, R51). -/
def crc16 {n : Nat} (ws : List (BitVec n)) : BitVec 16 := ws.foldl crcWord 0xFFFF

/-- A branch word of a type with contents (12.3). -/
def chainWord (type contents : Nat) : ChainWord := BitVec.ofNat 24 (type * 2 ^ 20 + contents)

/-- A flag as a bit of weight 2^k. -/
def bitAt (b : Bool) (k : Nat) : Nat := if b then 2 ^ k else 0

/-- A command word on the chain (12.3). -/
def CommandWord.word : CommandWord → ChainWord
  | .idle => chainWord 0 0
  | .value v => chainWord 1 v.toNat
  | .signIdle => chainWord 2 0
  | .signHeader only colour rows => chainWord 3 (bitAt only 8 + colour.toNat * 16 + rows.toNat)
  | .signChar row column flash colour code =>
    chainWord 4 (bitAt row 16 + column.toNat * 2 ^ 11 + bitAt flash 10 + colour.toNat * 2 ^ 7 + code.toNat)
  | .paPlay clip level => chainWord 5 (clip.toNat * 2 ^ 8 + level.toNat)
  | .paStop => chainWord 6 0
  | .paKeep => chainWord 7 0
  | .poll => chainWord 8 0

/-- The enabled map of a burst record: bit p - 1 stands for physical position p (12.3). -/
def BurstRecord.map (x : BurstRecord) : Nat := (x.entries.map fun e => 2 ^ e.place.val).sum

/-- The header word of a burst (R51, 12.3). -/
def BurstRecord.header (x : BurstRecord) : ChainWord := chainWord 9 (x.number.toNat * 2 ^ 16 + x.map)

/-- The outgoing stream of a burst: header, command words and check word (R51). -/
def BurstRecord.outgoing (x : BurstRecord) : List ChainWord :=
  let ws := x.header :: x.entries.map fun e => e.word.word
  ws ++ [(crc16 ws).setWidth 24]

/-- What the forward line carries in turn while the chain select is active, with its length in bit times: the lead delay with
the line idle, a word, an inter-word gap (R51). -/
inductive LineItem
  | lead (bits : Nat)
  | word (w : ChainWord)
  | gap (bits : Nat)
  deriving DecidableEq, Repr

def LineItem.bits : LineItem → Nat
  | .lead n | .gap n => n
  | .word _ => 24

/-- A burst on the chain: its lead delay, then the words of its outgoing stream with one gap between every two (R51). -/
def BurstRecord.line (x : BurstRecord) : List LineItem :=
  .lead (x.lead * 24) :: (x.outgoing.map LineItem.word).intersperse (.gap x.gap)

/-- The bit times of a burst before its return window: the lead delay, the header and the gap that follows it (R51, R59). -/
def BurstRecord.quietBits (x : BurstRecord) : Nat := x.lead * 24 + 24 + x.gap

/-- The time of one bit in µs (R40). -/
def BitRate.bitTime : BitRate → Nat
  | .k125 => 8
  | .k250 => 4
  | .k500 => 2
  | .k1000 => 1

/-- The length of a burst in bit times (R51). -/
def BurstRecord.bitTimes (x : BurstRecord) : Nat :=
  x.lead * 24 + (x.entries.length + 2) * 24 + (x.entries.length + 1) * x.gap

/-! ### Reply words (12.3, R198) -/

/-- The contents bits of a class. -/
def NodeClass.contents (c : NodeClass) (w : ChainWord) : Word :=
  match c with
  | .general => w.setWidth 16
  | .sign => (w.setWidth 1).setWidth 16
  | .pa => (w.setWidth 2).setWidth 16
  | .sensor => (w.setWidth 10).setWidth 16

/-- A reply is right when its slot is filled, its class mark is the record's and its echo is the previous burst's number
(R54); its contents, or none where it is wrong or missing. -/
def rightReply (c : NodeClass) (echo : BitVec 2) (w : ChainWord) : Option Word :=
  if w.getLsbD 23 && w.extractLsb' 21 2 == BitVec.ofNat 2 c.ctorIdx && w.extractLsb' 19 2 == echo then
    some (c.contents w)
  else none

/-- A return stream with one reply for each position and a matching check word (R53, R198). -/
def goodReturn (n : Nat) (ws : List ChainWord) : Bool :=
  ws.length == n + 1 &&
    match ws.getLast? with
    | some check => crc16 ws.dropLast == check.setWidth 16
    | none => false

end Sys2Proof.Machine
end

