-- ==== Sys2Proof/Machine/Branches.lean ====
section
/-! DEFINITION. The Branch Engines (chapter 3). -/

namespace Sys2Proof.Machine

namespace State

/-! ### Notices (R61) -/

/-- A notice about a position under a class and a zone: the owner, then the zone, then the Permit Table. -/
def notify (n : PosId) (cls : NodeClass) (zone : Option ZoneId) (fixed : Bool) (x : NodeNotice) (s : State) : State :=
  let s := match cls, x with
    | .sign, .present => signBack n zone s
    | .sign, .notPresent _ => signAway n s
    | .pa, .notPresent _ => paAway n s
    | _, _ => s
  let s := match zone with
    | some z => zoneNotice z fixed cls x s
    | none => s
  if x == .fixedChanged then s else changed (.node n) s

/-- A notice under the position's record as it stands. -/
def notifyOwn (n : PosId) (x : NodeNotice) (s : State) : State :=
  let c := (s.position n).cfg
  notify n c.cls c.zone c.fixed x s

/-! ### Bursts (R47 to R50) -/

/-- The word for a GENERAL position (R49). -/
def generalWord (n : PosId) (s : State) : CommandWord × State :=
  let x := s.position n
  match x.pendingWord with
  | some v => (.value v, s.modPosition n fun y => { y with pendingWord := none, lastWord := some v })
  | none =>
    match x.cfg.policy with
    | .repeatLast => (match x.lastWord with
      | some v => .value v
      | none => .idle, s)
    | .idle => (.idle, s)
    | .safe => (.value x.cfg.safeValue, s)

/-- The word of a position, taken from its owner (R49, R50). -/
def takeWord (n : PosId) (s : State) : CommandWord × State :=
  let c := (s.position n).cfg
  match c.cls with
  | .general => generalWord n s
  | .sign => takeSignWord n c.zone s
  | .pa => takePaWord n s
  | .sensor => (.poll, s)

/-- The entries of a burst for a list of places, their words taken in turn (R48). -/
def takeEntries (b : BranchId) : List PlaceId → State → List BurstEntry × State
  | [], s => ([], s)
  | p :: ps, s =>
    let n := posIndex b p
    let w := takeWord n s
    let rest := takeEntries b ps w.2
    (⟨p, (s.logical n).getD 0, (s.position n).cfg.cls, (s.position n).cfg.zone, w.1⟩ :: rest.1, rest.2)

/-- A burst begins (R48). -/
def beginBurst (b : BranchId) (s : State) : State :=
  let t := takeEntries b (s.enabledPlaces b) s
  t.2.modBranch b fun x =>
    let r : BurstRecord := ⟨x.number + 1, x.cfg.rate, x.cfg.lead, x.cfg.gap, t.1⟩
    { x with state := .burst, burst := some r, number := x.number + 1, held := false,
             left := some (r.bitTimes * r.rate.bitTime) }

/-- The chain select of a branch is active: through the whole of a burst, its lead delay among it, and in no other state; it
stays active where one burst follows on another (R41, R51, R58). -/
def chainSelect (s : State) (b : BranchId) : Bool := (s.branch b).state == .burst

/-- What the forward line of a branch carries in the burst in flight; nothing where none is (R51). -/
def forwardLine (s : State) (b : BranchId) : List LineItem :=
  match (s.branch b).burst with
  | some r => r.line
  | none => []

/-- A trigger reaches an engine (R47). -/
def trigger (s : State) (b : BranchId) : State :=
  match (s.branch b).state with
  | .idle => if (s.enabledPlaces b).isEmpty then s else beginBurst b s
  | .burst => s.modBranch b fun x => { x with held := true }
  | .disabled | .contended => s

/-- The trigger reaches the four engines (R6, R16). -/
def triggerAll (s : State) : State := (each 4).foldl trigger s

/-- A burst in flight is abandoned: the Call Unit is told of its words (R50). -/
def abandon (b : BranchId) (s : State) : State :=
  match (s.branch b).burst with
  | some r =>
    (r.entries.foldl (fun s e => undelivered (posIndex b e.place) e.cls s) s).modBranch b fun x =>
      { x with burst := none, left := none }
  | none => s

/-! ### Judging replies (R54 to R56) -/

/-- The inputs a reply carries for the Permit Table (R52). -/
def replyInputs (c : NodeClass) (w : Option Word) : Option Word :=
  match c, w with
  | .general, some v => some v
  | .sensor, some v => some (v &&& 0x00FF)
  | _, _ => none

/-- A wrong or missing reply of a judged position (R55). -/
def missReply (n : PosId) (s : State) : State :=
  let x := s.position n
  let run := min 3 (x.missRun + 1)
  let s := s.modPosition n fun y => { y with missRun := run }
  if run = 3 && x.presence != .absent then
    let s := s.modPosition n fun y => { y with presence := .absent }
    let s := s.post .nodeAbsent n.val (twoPart ((s.logical n).getD 0) (flagBit x.cfg.fixed 0))
    notifyOwn n (.notPresent .absent) s
  else s

/-- A right reply makes the node present (R55). -/
def nodeSeen (n : PosId) (s : State) : State :=
  let was := (s.position n).presence
  let s := s.modPosition n fun y => { y with missRun := 0, presence := .present }
  if was == .present then s
  else notifyOwn n .present (s.post .nodePresent n.val (BitVec.ofNat 16 ((s.logical n).getD 0)))

/-- A right reply is delivered to the owner of the recorded class, under the recorded zone (R56), and then changed inputs are told
to the Permit Table (R177). No rule orders the two: a driven ramp that the reply's alarm halts has the reason ZONE, also where
the new inputs fail its permit entry, and no PERMIT_DROPPED follows: DESIGN CHOICE, log entry 48. -/
def deliverReply (n : PosId) (cls : NodeClass) (zone : Option ZoneId) (v : Word) (s : State) : State :=
  let old := replyInputs cls (s.position n).lastReply
  let s := s.modPosition n fun y => { y with lastReply := some v }
  let s := match cls with
    | .general => holdReply n v s
    | .sign => signReply n (v.getLsbD 0) s
    | .pa => paReply n v s
    | .sensor => match zone with
      | some z => sensorReply z v s
      | none => s
  if replyInputs cls (some v) == old then s else changed (.node n) s

/-- The position stands in a record with a class (R54). -/
def recordHolds (r : BurstRecord) (e : BurstEntry) : Bool := r.entries.any fun x => x.place == e.place && x.cls == e.cls

/-- The table still holds a position enabled in the recorded class (R56). -/
def tableHolds (s : State) (n : PosId) (cls : NodeClass) : Bool := (s.position n).cfg.enabled && (s.position n).cfg.cls == cls

/-- One position of a return stream, absent where no activity came. It is judged by the two records alone (R54); a right reply
of a position that the table no longer holds is discarded, and its standing stays as the edit set it (R56, log entry 21). -/
def takeReply (b : BranchId) (previous : BurstRecord) (s : State) (x : BurstEntry × Option ChainWord) : State :=
  let n := posIndex b x.1.place
  if recordHolds previous x.1 then
    match x.2.bind (rightReply x.1.cls previous.number) with
    | some v => if s.tableHolds n x.1.cls then deliverReply n x.1.cls x.1.zone v (nodeSeen n s) else s
    | none => missReply n s
  else s

/-- Every reply of a burst is judged, in physical order (R53, R54). -/
def takeReplies (b : BranchId) (r : BurstRecord) (replies : List (Option ChainWord)) (s : State) : State :=
  match (s.branch b).previous with
  | some p => (r.entries.zip replies).foldl (takeReply b p) s
  | none => s

/-- The check-error run after a good return (R57). -/
def clearRun (b : BranchId) (s : State) : State :=
  let run := (s.branch b).checkRun
  let s := if 8 ≤ run then s.post .branchRecovered b.val (BitVec.ofNat 16 run) else s
  s.modBranch b fun x => { x with checkRun := 0 }

/-- The check-error run after a check error (R57). -/
def growRun (b : BranchId) (s : State) : State :=
  let run := min 255 ((s.branch b).checkRun + 1)
  let s := if (s.branch b).checkRun = 7 then s.post .branchDegraded b.val 8 else s
  s.modBranch b fun x => { x with checkRun := run }

/-- The return stream of a burst is taken (R53). -/
def takeReturn (b : BranchId) (r : BurstRecord) (ret : ReturnStream) (s : State) : State :=
  match ret with
  | .silent => takeReplies b r (r.entries.map fun _ => none) s
  | .garbled => growRun b s
  | .words ws =>
    if goodReturn r.entries.length ws then clearRun b (takeReplies b r (ws.map some) s) else growRun b s

/-- A burst ends (R53, R58). -/
def endBurst (b : BranchId) (ret : ReturnStream) (s : State) : State :=
  match (s.branch b).state, (s.branch b).burst with
  | .burst, some r =>
    let s := takeReturn b r ret s
    let s := (r.entries.map fun e => posIndex b e.place).foldl burstDelivered s
    let again := (s.branch b).held && !(s.enabledPlaces b).isEmpty
    let s := s.modBranch b fun x =>
      { x with state := .idle, burst := none, previous := some r, held := false, left := none }
    if again then beginBurst b s else s
  | _, _ => s

/-! ### Contention and commands (R42, R59) -/

/-- Every enabled position of a branch becomes UNKNOWN with its miss run 0. -/
def forgetNodes (b : BranchId) (s : State) : State :=
  (s.enabledPlaces b).foldl
    (fun s p => s.modPosition (posIndex b p) fun x => { x with presence := .unknown, missRun := 0 }) s

/-- Each enabled position of a branch is told not present. -/
def tellAway (b : BranchId) (why : AwayCause) (s : State) : State :=
  (s.enabledPlaces b).foldl (fun s p => notifyOwn (posIndex b p) (.notPresent why) s) s

/-- Return-line contention (R59). The command reports contention that the engine has found, so in BURST it takes the branch to
CONTENDED at whatever time of the burst it comes; R59 watches outside the return window only (log entry 35). -/
def contend (b : BranchId) (s : State) : State :=
  let left := (s.branch b).state
  if left == .idle || left == .burst then
    let s := (abandon b s).modBranch b fun x => { x with state := .contended, held := false, previous := none }
    let s := (forgetNodes b s).post .branchContended b.val (BitVec.ofNat 16 left.ctorIdx)
    tellAway b .contention s
  else s

/-- The branch is disabled (R42). -/
def disableBranch (b : BranchId) (s : State) : State :=
  if (s.branch b).state == .disabled then s
  else
    let s := (abandon b s).modBranch b fun x =>
      { x with state := .disabled, held := false, previous := none, checkRun := 0 }
    tellAway b .disable (forgetNodes b s)

/-- BRANCH_COMMAND ENABLE (R42). -/
def enableBranch (b : BranchId) (s : State) : Answered :=
  match (s.branch b).state with
  | .idle | .burst => (s, .done)
  | .disabled | .contended =>
    if (s.branch b).cfg.enable then
      (s.modBranch b fun x => { x with state := .idle, checkRun := 0, held := false, previous := none }, .done)
    else (s, .state)

/-- An accepted BRANCH write (R40). -/
def writeBranch (b : BranchId) (new : BranchCfg) (s : State) : State :=
  let s := s.modBranch b fun x => { x with cfg := new }
  if new.enable then s else disableBranch b s

/-! ### POSITION writes (R45, R46) -/

/-- The derived fields of a position whose standing is reset. -/
def resetPosition (n : PosId) (new : PositionCfg) (s : State) : State :=
  s.modPosition n fun _ => ⟨new, .unknown, 0, none, none, none⟩

/-- An accepted POSITION write and the count of route entries it voids. The notices are those of R61: EDIT under the old class
and zone, and a changed fixed flag of a position that stays enabled under the new. -/
def writePosition (n : PosId) (new : PositionCfg) (s : State) : State × Nat :=
  let old := (s.position n).cfg
  if new = old then (s, 0)
  else if !old.enabled then
    if new.enabled then (resetPosition n new s, 0) else (s.modPosition n fun x => { x with cfg := new }, 0)
  else if !new.enabled || new.cls != old.cls || new.zone != old.zone then
    let s := notify n old.cls old.zone old.fixed (.notPresent .edit) (resetPosition n new s)
    let s := if new.enabled && new.fixed != old.fixed then notifyOwn n .fixedChanged s else s
    if old.cls == .general && (!new.enabled || new.cls != .general) then voidRoutes n s else (s, 0)
  else
    let s := s.modPosition n fun x => { x with cfg := new }
    if new.fixed != old.fixed then (notifyOwn n .fixedChanged s, 0) else (s, 0)

/-! ### RESTART (R63) -/

/-- RESTART of one engine. -/
def restartBranch (s : State) (b : BranchId) : State :=
  let s := (abandon b s).modBranch b fun x =>
    { x with state := if x.state == .burst then .idle else x.state, held := false, previous := none, checkRun := 0 }
  (each 16).foldl (fun s p => s.modPosition (posIndex b p) fun x =>
    { x with presence := .unknown, missRun := 0, pendingWord := none, lastWord := none, lastReply := none }) s

def restartBranches (s : State) : State := (each 4).foldl restartBranch s

end State

end Sys2Proof.Machine
end

