-- ==== Sys2Proof/Machine/Reads.lean ====
section
/-! DEFINITION. STATE_READ and TABLE_READ (R27, R32 to R34, 12.2). -/

namespace Sys2Proof.Machine

/-- The channel modes, in the order of R33; a channel's mode follows from its binding and its parity (R97). -/
inductive ChannelMode
  | idle | pwmMaster | pwmSlave | eventCount | widthCapture
  deriving DecidableEq, Repr

def Binding.mode (b : Binding) (odd : Bool) : ChannelMode :=
  match b with
  | .none => .idle
  | .rampValve _ | .chime | .flash1 | .flash2 => if odd then .pwmSlave else .pwmMaster
  | .rampEncoder _ | .zoneDetector _ => .eventCount
  | .rampSpeed _ => .widthCapture

/-- Running flag, count, compare and capture of a channel (R112). -/
structure Observed where
  running : Bool
  count : Nat
  compare : Nat
  capture : Nat
  deriving DecidableEq, Repr

/-- What a channel shows by what it is doing (R112). -/
def ChannelRun.observe (r : ChannelRun) (odd : Bool) : Observed :=
  match r with
  | .stopped => ⟨false, 0, 0, 0⟩
  | .pwm p => if odd then ⟨true, p.count, p.duty, p.bufDuty.getD p.duty⟩
    else ⟨true, p.count, p.period, p.bufPeriod.getD p.period⟩
  | .counting k => ⟨true, k.count, k.compare, k.capture⟩
  | .capturing w => ⟨true, w.count, w.stallCount, w.capture⟩

/-- The word of a LOAD claim (12.2). -/
def Claim.word (c : Claim) : Word :=
  if c.claimant.val < 32 then enc (c.claimant.val * 2 ^ 10 + c.cls.ctorIdx * 2 ^ 8 + flagBit c.shed 7 + c.units)
  else enc (c.claimant.val * 2 ^ 10 + c.cls.ctorIdx * 2 ^ 8 + c.units)

/-- A zone set as a word: bit z - 1 stands for zone z (12.2). -/
def zoneSet (zs : List ZoneId) : Word := enc (zs.map fun z => 2 ^ z.val).sum

namespace State

/-! ### STATE_READ (R33, R34) -/

/-- The claim standing of the pin that holds a function. -/
def functionStanding (s : State) (f : PinFunction) : Standing :=
  match s.claimantOf f with
  | some c => s.standing c
  | none => .none

def readDoorState (d : DoorId) (s : State) : State × List Word :=
  let x := s.door d
  let claim := s.functionStanding (match x.cfg.kind with
    | .magnet => .doorHoldback d
    | .latch => .doorRelease d)
  let t := timeLeft 1000 x.timer s
  (t.2, [enc x.state.ctorIdx, enc x.reason.ctorIdx, enc (x.cfg.zone.val + 1), enc x.holdsUsed, enc x.retriesUsed, t.1,
    enc claim.ctorIdx])

def readRampState (r : RampId) (s : State) : State × List Word :=
  let x := s.ramp r
  let t := timeLeft 1000 x.grace s
  (t.2, [enc x.state.ctorIdx, enc x.reason.ctorIdx, enc (s.countOf (.rampEncoder r)), encFlag x.lastToggle, t.1,
    enc (s.standing (driveClaimant r)).ctorIdx, encFlag (s.stowLimit r), encFlag (s.landLimit r),
    encFlag (s.lockedLimit r)])

def readZoneState (z : ZoneId) (s : State) : State × List Word :=
  let x := s.zone z
  let t := timeLeft 1000 x.window s
  (t.2, [enc x.state.ctorIdx, encFlag x.fault, encFlag x.window.isSome, enc (min 15 (s.countOf (.zoneDetector z))), t.1,
    encOpt ((s.presenting z).map fun p => p.tag.toNat), encOpt ((s.presenting z).map fun p => p.phase.ctorIdx)])

def readBranchState (b : BranchId) (s : State) : State × List Word :=
  let x := s.branch b
  (s, [enc x.state.ctorIdx, enc x.checkRun, enc x.number.toNat, enc (s.enabledPlaces b).length, encFlag x.held])

def readPositionState (n : PosId) (s : State) : State × List Word :=
  let x := s.position n
  (s, [encFlag x.cfg.enabled, enc x.cfg.cls.ctorIdx, encOpt (s.logical n), enc x.presence.ctorIdx, enc x.missRun]
    ++ encOpt2 x.pendingWord ++ encOpt2 x.lastWord ++ encOpt2 x.lastReply)

def readChannelState (c : ChanId) (s : State) : State × List Word :=
  let odd := s.isSlave c
  let g := s.channelRecord c
  let o := (s.channel (if odd then masterOf c else c)).run.observe odd
  let count := countWord o.count s
  let compare := countWord o.compare count.2
  let capture := countWord o.capture compare.2
  (capture.2, [g.binding.words.1, g.binding.words.2, enc g.clock.ctorIdx, enc (g.binding.mode odd).ctorIdx,
    encFlag o.running, count.1, compare.1, capture.1])

/-- One page of the load account (R34). -/
def readLoad (page : Fin 2) (s : State) : State × List Word :=
  let a := s.account
  let claims := ((a.granted ++ a.pending).drop (24 * page.val)).take 24
  (s, [enc s.unit.junction.loadBudget, enc (unitsOf a.granted), enc a.granted.length, enc a.pending.length]
    ++ claims.map Claim.word)

/-- The progress items with their gap times in 100 ms units (12.2). -/
def readItems : List ProgressItem → State → State × List Word
  | [], s => (s, [])
  | i :: is, s =>
    let t := timeLeft 100000 i.gap s
    let rest := readItems is t.2
    (rest.1, enc ((i.zone.val + 1) * 2 ^ 12 + i.remaining * 2 ^ 8 + i.status.ctorIdx) :: t.1 :: rest.2)

def readCall (c : Call) (s : State) : State × List Word :=
  let items := readItems c.items s
  (items.1, [enc c.cls.ctorIdx, enc c.origin.ctorIdx, zoneSet (c.items.map ProgressItem.zone), encOpt c.clip,
    encOpt (c.block.map (·.val)), encOpt (c.pattern.map (·.val)), encOpt c.level, enc c.repeats, enc c.gap, c.arrival,
    enc c.items.length] ++ items.2)

/-- The answer of a read. -/
def readDone (r : State × List Word) : Answered := (r.1, ⟨.done, r.2⟩)

/-- Read an object that an index names; the kind is field 1 of the request and the index field 2 (R22). -/
def readObject {ι : Type} (i : Option ι) (f : ι → State → State × List Word) (s : State) : Answered :=
  match i with
  | some i => readDone (f i s)
  | none => (s, .range 2)

/-- STATE_READ: the kinds in the order of R32. -/
def stateRead (kind index : Word) (s : State) : Answered :=
  match kind.toNat with
  | 0 => readObject (number? 24 index) readDoorState s
  | 1 => readObject (number? 2 index) readRampState s
  | 2 => readObject (number? 8 index) readZoneState s
  | 3 => readObject (index? 4 index) readBranchState s
  | 4 => readObject (index? 64 index) readPositionState s
  | 5 => readObject (index? 12 index) readChannelState s
  | 6 => readObject (index? 2 index) readLoad s
  | 7 =>
    if index.toNat < 256 then
      match s.findCall (BitVec.ofNat 8 index.toNat) with
      | some c => readDone (readCall c s)
      | none => (s, .state)
    else (s, .range 2)
  | _ => (s, .range 1)

/-! ### TABLE_READ (R27) -/

/-- A ROUTE entry with the position's current logical number (R67). -/
def routeWords (i : SlotId) (s : State) : List Word :=
  let e := (s.slot i).entry
  [encFlag e.valid, enc e.branch.val, encOpt (e.place.map fun p => p.val + 1), encOpt (e.names.bind s.logical),
   encFlag e.replyWanted]

/-- Read a table entry; the table is field 1 of the request and the index field 2 (R22). -/
def readEntry {ι : Type} (i : Option ι) (f : ι → List Word) (s : State) : Answered :=
  match i with
  | some i => (s, ⟨.done, f i⟩)
  | none => (s, .range 2)

/-- TABLE_READ: the tables in the order of 2.2; the entry alone is the reply payload (log entry 11). -/
def tableRead (table index : Word) (s : State) : Answered :=
  match table.toNat with
  | 0 => readEntry (index? 1 index) (fun _ => s.unit.junction.words) s
  | 1 => readEntry (index? 4 index) (fun b => (s.branch b).cfg.words) s
  | 2 => readEntry (index? 64 index) (fun n => (s.position n).cfg.words) s
  | 3 => readEntry (index? 64 index) (fun i => routeWords i s) s
  | 4 => readEntry (index? 32 index) (fun p => (s.pin p).cfg.words) s
  | 5 => readEntry (index? 12 index) (fun c => (s.channelRecord c).words) s
  | 6 => readEntry (index? 8 index) (fun k => (s.chime k).words) s
  | 7 => readEntry (number? 8 index) (fun z => (s.zone z).cfg.words) s
  | 8 => readEntry (number? 24 index) (fun d => (s.door d).cfg.words) s
  | 9 => readEntry (number? 2 index) (fun r => (s.ramp r).cfg.words) s
  | 10 => readEntry (index? 16 index) (fun k => (s.permit k).words) s
  | _ => (s, .range 1)

end State

end Sys2Proof.Machine
end

