-- ==== Sys2Proof/Machine/Restart.lean ====
section
/-! DEFINITION. RESTART as one operation (2.7). The blocks apply their parts in an order that meets what R94, R131, R152, R172
and R195 say of it (log entry 23). -/

namespace Sys2Proof.Machine.State

/-- The Request Unit's part: the pending reply is discarded, the event queue emptied and the overflow flag cleared (R35). -/
def restartUnit (s : State) : State := s.modUnit fun u => { u with reply := none, events := [], overflow := false }

/-- What moves no claim: chains, slots, channels, and the fields of the doors, the warning counts and the ramps. -/
def restartQuiet (s : State) : State :=
  let s := (each 24).foldl restartDoorFields (restartPool (restartRoutes (restartBranches s)))
  (each 2).foldl restartRampFields ((each 8).foldl (fun s z => s.modWarning z fun _ => 0) s)

/-- The claims: withdrawn by the Line Unit, then made anew by the zones, the doors and the ramps, each in ascending number
(R94). -/
def restartClaiming (s : State) : State :=
  (each 2).foldl restartBeacon ((each 24).foldl restartClaims (restartZones (restartCalls (restartLines s))))

/-- RESTART (R35). The doors take their states when every claim is made, so that no grant moves a derived door (R152). -/
def restartPart (s : State) : State :=
  let t := restartDoors (fun d => (s.door d).state) (restartClaiming (restartQuiet (restartUnit s)))
  (each 2).foldl (restartRamp fun r => (s.ramp r).state) t

end Sys2Proof.Machine.State
end

