-- ==== Sys2Proof/Machine/Requests.lean ====
section
/-! DEFINITION. The Request Unit: the checks of a request in the order of R21, and its reply (chapter 2). -/

namespace Sys2Proof.Machine

/-- A request as a segment carries it (2.1). -/
structure Request where
  opcode : Byte
  tag : Byte
  payload : List Word
  deriving DecidableEq, Repr

/-- The opcodes, in the order of the request catalogue (R196). -/
inductive Opcode
  | tableWrite | tableRead | blockWrite | stateRead | configLock | restart | zoneCommand | doorCommand | rampCommand
  | branchCommand | callPost | callCancel | outputSet
  deriving DecidableEq, Repr

def Opcode.code (o : Opcode) : Byte := BitVec.ofNat 8 o.ctorIdx

/-- The ramp whose motion an action is. -/
def PermitAction.ramp? : PermitAction → Option RampId
  | .rampLower r | .rampRaise r => some r
  | _ => none

namespace State

/-! ### Replies (R20, R22) -/

/-- A request taken from the own segment leaves its reply pending; one from a broadcast segment leaves none (R20). -/
def answer (src : Source) (opcode tag : Byte) (r : Answered) : State :=
  match src with
  | .own => r.1.modUnit fun u => { u with reply := some ⟨opcode, tag, r.2.result, r.2.payload⟩ }
  | .broadcast => r.1

/-- A request executes in an active part (log entry 7). -/
def execute (src : Source) (opcode tag : Byte) (f : State → Answered) (s : State) : State :=
  if s.active then answer src opcode tag (f s) else s

/-! ### TABLE_WRITE (R24) -/

/-- A write of an entry: its index, its fields, and then its table's own checks and effect (R21). An index out of range is
reported as field 0 (R22), also where the payload has a wrong length too: R21 does not order the two (log entry 42). -/
def putEntry {ι α : Type} (index : Option ι) (fields : Read α) (put : ι → α → State → Answered) (s : State) : Answered :=
  match index, fields with
  | none, _ => (s, .range 0)
  | some _, .error e => s.misread e
  | some i, .ok a => put i a s

/-- A ROUTE write, its logical number looked up as the branch stands when the write executes (R65). -/
def putRoute (index : Word) (fields : List Word) (s : State) : Answered :=
  putEntry (index? 64 index) (readRoute (fun b k => (s.placeOfLogical b k).isSome) fields) writeRoute s

/-- A table frozen by the configuration lock (R30). -/
def unlessLocked (f : State → Answered) (s : State) : Answered := if s.unit.lock then (s, .locked) else f s

/-- R29, R92. -/
def putJunction (_ : Fin 1) (new : JunctionCfg) (s : State) : Answered :=
  let old := s.unit.junction
  if s.unit.lock && new.loadBudget != old.loadBudget then (s, .locked)
  else if new.loadBudget < unitsOf s.account.granted then (s, .stateField 4)
  else
    let s := s.modUnit fun u => { u with junction := new }
    (if new.loadBudget != old.loadBudget then tell signal s.settle else s, .done)

/-- R40. -/
def putBranch (b : BranchId) (new : BranchCfg) (s : State) : Answered :=
  unlessLocked (fun s => (writeBranch b new s, .done)) s

/-- R43; the payload is the count of route entries voided. -/
def putPosition (n : PosId) (new : PositionCfg) (s : State) : Answered :=
  unlessLocked (fun s => let r := writePosition n new s; (r.1, ⟨.done, [enc r.2]⟩)) s

/-- R77, R78. -/
def putPin (p : PinId) (new : PinCfg) (s : State) : Answered :=
  unlessLocked (fun s =>
    let old := (s.pin p).cfg
    if s.functionTaken p new.function then (s, .conflict 1)
    else if new.function == old.function && new.units != old.units && s.claimStands p then (s, .stateField 5)
    else (writePin p new s, .done)) s

/-- R96. -/
def putChannel (c : ChanId) (new : ChannelCfg) (s : State) : Answered :=
  unlessLocked (fun s => match s.channelConflict c new with
    | some f => (s, .conflict f)
    | none => (writeChannel c new s, .done)) s

/-- R109. -/
def putChime (k : ChimeId) (new : ChimeCfg) (s : State) : Answered := (s.modChime k fun _ => new, .done)

/-- R115: configured is not cleared in ALARM or EVACUATE. -/
def putZone (z : ZoneId) (new : ZoneCfg) (s : State) : Answered :=
  if !new.configured && s.alarmed z then (s, .stateField 1) else (writeZone z new s, .done)

/-- R132. -/
def putDoor (d : DoorId) (new : DoorCfg) (s : State) : Answered := (writeDoor d new s, .done)

/-- R154. -/
def putRamp (r : RampId) (new : RampCfg) (s : State) : Answered := (writeRamp r new s, .done)

/-- The first condition of an entry that names its own ramp, by its place (R173). -/
def ownRamp (e : PermitEntry) : Option Nat :=
  match e.action.ramp? with
  | some r => e.conditions.findIdx? fun c => c.subject == some (.ramp r)
  | none => none

/-- The field on which an entry in use conflicts (R173). -/
def permitConflict (s : State) (k : PermitId) (e : PermitEntry) : Option Nat :=
  if !e.used then none
  else if (each 16).any fun j => j != k && (s.permit j).used && (s.permit j).action == e.action then some 2
  else (ownRamp e).map fun i => 6 + 4 * i

/-- An accepted PERMIT write: an entry that guards a driven ramp's direction is judged at once (R179). -/
def writePermit (k : PermitId) (e : PermitEntry) (s : State) : State :=
  if e = s.permit k then s
  else
    let s := s.modPermit k fun _ => e
    (each 2).foldl (fun s r => if s.driveGuard r == some k then judgeWith signal r s else s) s

/-- R173. -/
def putPermit (k : PermitId) (e : PermitEntry) (s : State) : Answered :=
  match s.permitConflict k e with
  | some f => (s, .conflict f)
  | none => (writePermit k e s, .done)

/-! ### Blocks, the lock and RESTART -/

/-- A character word of a BLOCK_WRITE (12.2). -/
def readChar (w : Word) : SignChar := ⟨w.extractLsb' 0 7, w.extractLsb' 7 3, w.getLsbD 10⟩

/-- A row of a sign block and, with row 0, its raster colour (R31, R192). -/
def storeRow (b : SignBlock) (row : Fin 2) (ws : List Word) : SignBlock :=
  { raster := if row = 0 then (ws.headD 0).extractLsb' 11 3 else b.raster,
    chars := Vector.ofFn fun j : Fin 48 =>
      if j.val / 24 = row.val then readChar (ws.getD (j.val % 24) 0) else b.chars[j.val] }

/-- BLOCK_WRITE (R31): block and row are the two fields of the first word. -/
def blockWrite (payload : List Word) (s : State) : Answered :=
  if payload.length ≠ 25 then s.misread .length
  else
    let first := payload.headD 0
    match index? 8 (first &&& 0x00FF), index? 2 (first >>> 8) with
    | none, _ => (s, .range 1)
    | some _, none => (s, .range 2)
    | some k, some row => (blockWritten k (s.modBlock k fun b => storeRow b row payload.tail), .done)

/-- CONFIG_LOCK (R30). -/
def configLock (payload : List Word) (s : State) : Answered :=
  if payload.isEmpty then (s.modUnit fun u => { u with lock := true }, .done) else s.misread .length

/-- RESTART (R35). -/
def restartRequest (payload : List Word) (s : State) : Answered :=
  if payload.isEmpty then (s.restartPart, .done) else s.misread .length

/-! ### Calls (R182, R190) -/

/-- The zones of a set word. -/
def setZones (w : Word) : List ZoneId := (each 8).filter fun z => w.getLsbD z.val

/-- The fields of CALL_POST (R182). -/
def readPost : List Word → Read Call
  | [a, b, c, d, e, f, g, h, i] => do
    let tag ← need 1 (range? 0 239 a)
    let cls ← need 2 (code? [CallClass.passenger, .crew, .safety] b)
    let set ← need 3 (range? 1 255 c)
    let clip ← need 4 (optional? (range? 0 255) d)
    let block ← need 5 (optional? (index? 8) e)
    must 4 (clip.isSome || block.isSome)
    let pattern ← need 6 (optional? (index? 8) f)
    let level ← need 7 (optional? (range? 0 15) g)
    let repeats ← need 8 (range? 0 15 h)
    let gap ← need 9 (range? 0 60 i)
    return { tag := BitVec.ofNat 8 tag, cls := cls, origin := .bridge, clip := clip, block := block,
             pattern := pattern, level := level, repeats := repeats, gap := gap, arrival := 0,
             items := freshItems (setZones (enc set)) repeats }
  | _ => .error .length

/-- CALL_POST with its fields in range (R182). -/
def postCall (c : Call) (s : State) : Answered :=
  let zones := c.items.map ProgressItem.zone
  if zones.any fun z => (s.zone z).state == .unused then (s, .state)
  else if (s.findCall c.tag).isSome then (s, .duplicate)
  else match enqueue c s with
    | none => (s, .full)
    | some t => (zones.foldl selectCall t, .done)

def callPost (payload : List Word) (s : State) : Answered :=
  match readPost payload with
  | .error e => s.misread e
  | .ok c => postCall c s

/-- CALL_CANCEL (R190). -/
def callCancel (tag : Word) (s : State) : Answered :=
  match range? 0 239 tag with
  | none => (s, .range 1)
  | some n =>
    if (s.findCall (BitVec.ofNat 8 n)).isSome then (removeCall (BitVec.ofNat 8 n) .cancelled s, .done) else (s, .state)

/-! ### Object commands (R23) -/

/-- A command of an object: an index outside its numbering is refused on field 1. -/
def onObject {ι : Type} (i : Option ι) (f : ι → State → Answered) (s : State) : Answered :=
  match i with
  | some i => f i s
  | none => (s, .range 1)

/-- DONE with a new state, or REFUSED_STATE. -/
def orState (t : Option State) (s : State) : Answered :=
  match t with
  | some t => (t, .done)
  | none => (s, .state)

/-- CLOSE (R138). -/
def doorCloseOn (d : DoorId) (s : State) : Answered := orState (closeDoor d s) s

/-- REOPEN (R146). -/
def doorReopenOn (d : DoorId) (s : State) : Answered :=
  if !(s.door d).state.reopens || s.alarmed (s.door d).cfg.zone then (s, .state)
  else match s.forbids (.doorReopen d) with
    | some k => (s, .permit k)
    | none => (reopenDoor d s, .done)

/-- DISABLE (R136). -/
def doorDisableOn (d : DoorId) (s : State) : Answered :=
  (if (s.door d).state == .disabled then s.modDoor d fun x => { x with reason := .command }
   else doorOp d (leaveService d .command) s, .done)

/-- ENABLE (R136). -/
def doorEnableOn (d : DoorId) (s : State) : Answered :=
  if (s.door d).state == .disabled then
    if (s.door d).cfg.enabled then (doorOp d (tryService d) s, .done) else (s, .state)
  else (s, .done)

/-- ACK_FAULT of a door (R148); the reason of a WARNING it derives is that of log entry 47. -/
def doorAckOn (d : DoorId) (s : State) : Answered :=
  if (s.door d).state == .fault then (doorOp d (deriveDoor d) s, .done) else (s, .state)

/-- STOP (R168). -/
def rampStopOn (r : RampId) (s : State) : Answered := (stopRamp r s, .done)

/-- ACK_FAULT of a ramp (R169). -/
def rampAckOn (r : RampId) (s : State) : Answered :=
  if (s.ramp r).state == .fault then (deriveRamp r s, .done) else (s, .state)

/-- DISABLE of a ramp (R158). -/
def rampDisableOn (r : RampId) (s : State) : Answered := (disableRamp r s, .done)

/-- ENABLE of a ramp (R158). -/
def rampEnableOn (r : RampId) (s : State) : Answered := orState (enableRamp r s) s

/-- DISABLE of a branch (R42). -/
def branchDisableOn (b : BranchId) (s : State) : Answered := (disableBranch b s, .done)

/-! ### A request as a segment carries it (R21, R23, R197) -/

/-- A command of an object as its two payload words give it: the object is field 1 and the command code field 2. -/
def objectCommand {ι : Type} (object : Word → Option ι) (commands : List (ι → State → Answered)) (payload : List Word)
    (s : State) : Answered :=
  match payload with
  | [a, b] =>
    match object a, code? commands b with
    | none, _ => (s, .range 1)
    | some _, none => (s, .range 2)
    | some i, some f => f i s
  | _ => s.misread .length

/-- The zone commands, in the order of the catalogue. -/
def zoneCommands : List (ZoneId → State → Answered) := [setAlarmZone, evacuateZone, clearZone, isolateZone, restoreZone]

/-- The door commands, in the order of the catalogue. -/
def doorCommands : List (DoorId → State → Answered) := [doorCloseOn, doorReopenOn, doorDisableOn, doorEnableOn, doorAckOn]

/-- The ramp commands, in the order of the catalogue. -/
def rampCommands : List (RampId → State → Answered) := [rampStopOn, rampAckOn, rampDisableOn, rampEnableOn]

/-- The branch commands, in the order of the catalogue. -/
def branchCommands : List (BranchId → State → Answered) := [enableBranch, branchDisableOn]

/-- The output settings, in the order of the catalogue. -/
def outputSettings : List (PinId → State → Answered) :=
  [OutputSetting.off, .on, .flash1, .flash2].map fun t p s => setOutput p t s

/-- TABLE_WRITE by its table code (R196); a fault in the code or the index is field 0 (R22). -/
def tableWrite (table index : Word) (fields : List Word) (s : State) : Answered :=
  match table.toNat with
  | 0 => putEntry (index? 1 index) (readJunction fields) putJunction s
  | 1 => putEntry (index? 4 index) (readBranch fields) putBranch s
  | 2 => putEntry (index? 64 index) (readPosition fields) putPosition s
  | 3 => putRoute index fields s
  | 4 => putEntry (index? 32 index) (readPin fields) putPin s
  | 5 => putEntry (index? 12 index) (readChannel fields) putChannel s
  | 6 => putEntry (index? 8 index) (readChime fields) putChime s
  | 7 => putEntry (number? 8 index) (readZone fields) putZone s
  | 8 => putEntry (number? 24 index) (readDoor fields) putDoor s
  | 9 => putEntry (number? 2 index) (readRamp fields) putRamp s
  | 10 => putEntry (index? 16 index) (readPermit fields) putPermit s
  | _ => (s, .range 0)

/-- Execute a request by its opcode (R21, R196). -/
def perform (q : Request) (s : State) : Answered :=
  match q.opcode.toNat, q.payload with
  | 0, t :: i :: fields => tableWrite t i fields s
  | 1, [t, i] => tableRead t i s
  | 2, payload => blockWrite payload s
  | 3, [k, i] => stateRead k i s
  | 4, payload => configLock payload s
  | 5, payload => restartRequest payload s
  | 6, payload => objectCommand (number? 8) zoneCommands payload s
  | 7, payload => objectCommand (number? 24) doorCommands payload s
  | 8, payload => objectCommand (number? 2) rampCommands payload s
  | 9, payload => objectCommand (index? 4) branchCommands payload s
  | 10, payload => callPost payload s
  | 11, [t] => callCancel t s
  | 12, payload => objectCommand (index? 32) outputSettings payload s
  | n, _ => if n < 13 then s.misread .length else (s, .unknown)

/-- A segment's request is executed (R20). -/
def takeRequest (src : Source) (q : Request) (s : State) : State := execute src q.opcode q.tag (perform q) s

end State

end Sys2Proof.Machine
end

