-- ==== Sys2Proof/Machine/Trunk.lean ====
section
/-! DEFINITION. The Trunk Port: taking frames, building reply segments, modes and timers (chapter 1, 12.1). -/

namespace Sys2Proof.Machine

/-- How many words a frame has at most, the start delimiter counted (R2). -/
def frameLimit : Nat := 1024

/-- A frame is good (R2): its words after the start delimiter are a header of two words at least and a right check word. -/
def goodFrame (ws : List Word) : Bool :=
  3 ≤ ws.length && ws.length + 1 ≤ frameLimit &&
    match ws.getLast? with
    | some check => crc16 ws.dropLast == check
    | none => false

/-- A segment: its header word and its body (12.1). -/
structure Segment where
  header : Word
  body : List Word
  deriving DecidableEq, Repr

def Segment.address (x : Segment) : BitVec 5 := x.header.extractLsb' 11 5
def Segment.isReply (x : Segment) : Bool := x.header.getLsbD 10
def Segment.words (x : Segment) : List Word := x.header :: x.body

/-- Walk a number of segments by their declared lengths; the last must end at the check word (R4). -/
def walk : Nat → List Word → Option (List Segment)
  | 0, [] => some []
  | 0, _ :: _ => none
  | _ + 1, [] => none
  | n + 1, h :: rest =>
    let len := (h.extractLsb' 0 10).toNat
    if len ≤ rest.length then (walk n (rest.drop len)).map fun xs => ⟨h, rest.take len⟩ :: xs else none

/-- What a well-formed command segment carries. -/
structure Carried where
  items : List (Fin 66 × Word)
  request : Option Request
  deriving DecidableEq, Repr

/-- Read a number of slot items; none when an index or the length is wrong (R8). -/
def readItems : Nat → List Word → Option (List (Fin 66 × Word) × List Word)
  | 0, ws => some ([], ws)
  | n + 1, i :: v :: ws =>
    let k := (i.extractLsb' 0 7).toNat
    if h : k < 66 then (readItems n ws).map fun r => ((⟨k, h⟩, v) :: r.1, r.2) else none
  | _ + 1, _ => none

/-- Read a request that fills the words left (R8). -/
def readRequest : List Word → Option Request
  | a :: b :: payload =>
    let len := (b.extractLsb' 0 6).toNat
    if len ≤ 32 && payload.length == len then some ⟨a.extractLsb' 8 8, a.extractLsb' 0 8, payload⟩ else none
  | _ => none

/-- Read the body of a command segment; none where it is malformed (R8, R197). -/
def readCommand : List Word → Option Carried
  | [] => none
  | w :: rest =>
    let count := (w.extractLsb' 0 7).toNat
    if 66 < count then none
    else match readItems count rest with
      | none => none
      | some (items, left) =>
        if w.getLsbD 15 then (readRequest left).map fun q => ⟨items, some q⟩
        else if left.isEmpty then some ⟨items, none⟩ else none

/-- A motion word (R18): an undefined direction is NONE and an undefined speed CREEP. -/
def readMotion (w : Word) : MotionWord where
  direction := if w.extractLsb' 0 2 = 1 then some .lower else if w.extractLsb' 0 2 = 2 then some .raise else none
  speed := if w.extractLsb' 2 2 = 1 then .normal else .creep
  toggle := w.getLsbD 15

/-- A broadcast segment's request is executed only for RESTART, ZONE_COMMAND and CALL_CANCEL (R10). -/
def Request.broadcasts (q : Request) : Bool :=
  q.opcode == Opcode.restart.code || q.opcode == Opcode.zoneCommand.code || q.opcode == Opcode.callCancel.code

/-! ### The words of a reply segment (12.1) -/

def Event.words (e : Event) : List Word :=
  [BitVec.ofNat 16 (e.kind.ctorIdx * 2 ^ 11 + e.subject.toNat), e.detail, e.stamp]

def ReplyItem.words (x : ReplyItem) : List Word :=
  [BitVec.ofNat 16 (x.quality.ctorIdx * 2 ^ 14 + x.slot.val), x.value]

def Reply.words (r : Reply) : List Word :=
  [BitVec.ofNat 16 (r.opcode.toNat * 2 ^ 8 + r.tag.toNat),
   BitVec.ofNat 16 (r.result.ctorIdx * 2 ^ 8 + r.payload.length)] ++ r.payload

/-- Which parts of a reply segment are kept (R14). -/
structure Parts where
  events : Bool
  items : Bool
  reply : Bool
  deriving DecidableEq, Repr

/-- How many events a reply segment drains at most (R11). -/
def drainLimit : Nat := 4

namespace State

/-- The events a reply segment takes. -/
def replyEvents (s : State) (k : Parts) : List Event := if k.events then s.unit.events.take drainLimit else []

/-- The reply items it takes. -/
def replyList (s : State) (k : Parts) : List ReplyItem := if k.items then s.replyItems else []

/-- The management reply it takes. -/
def replyTaken (s : State) (k : Parts) : Option Reply := if k.reply then s.unit.reply else none

/-- The state after a build: events removed, items reported, the pending reply handed over (R11, R14, R73). -/
def afterBuild (s : State) (k : Parts) : State :=
  let t := if k.events then s.drainEvents drainLimit else s
  let t := (s.replyList k).foldl reportItem t
  if k.reply then t.modUnit fun u => { u with reply := none } else t

/-- The body of the reply segment; the status record is sampled after the events are removed (R11, R12). -/
def replyBody (s : State) (k : Parts) : List Word :=
  let t := s.afterBuild k
  let events := s.replyEvents k
  let items := s.replyList k
  let reply := s.replyTaken k
  [t.statusRecord] ++ t.rampStatus 0 ++ t.rampStatus 1
    ++ [BitVec.ofNat 16 (flagBit reply.isSome 15 + events.length * 2 ^ 7 + items.length)]
    ++ items.flatMap ReplyItem.words ++ events.flatMap Event.words
    ++ match reply with
      | some r => r.words
      | none => []

/-- The reply segment. -/
def replySegment (s : State) (k : Parts) : Segment :=
  let body := s.replyBody k
  ⟨BitVec.ofNat 16 (s.trunk.address.toNat * 2 ^ 11 + 2 ^ 10 + body.length), body⟩

/-- What R14 leaves out, in its order. -/
def shortenings : List Parts := [⟨true, true, true⟩, ⟨false, true, true⟩, ⟨false, false, true⟩, ⟨false, false, false⟩]

/-- The first form of the reply segment with which the frame fits; `others` counts the frame's other words (R14). -/
def fittingParts (s : State) (others : Nat) : Option Parts :=
  shortenings.find? fun k => others + (s.replySegment k).words.length ≤ frameLimit

/-! ### Taking segments (R7 to R10) -/

/-- A slot item is handed on (R9). -/
def takeItem (s : State) (x : Fin 66 × Word) : State :=
  if h : x.1.val < 64 then slotWord ⟨x.1.val, h⟩ x.2 s
  else takeMotion ⟨x.1.val - 64, by omega⟩ (readMotion x.2) s

/-- A well-formed own segment acts after its reply is built; its request is left out with the management reply (R9, R14). -/
def actOn (c : Carried) (k : Parts) (s : State) : State :=
  let s := c.items.foldl takeItem s
  match c.request with
  | some q => if k.reply then takeRequest .own q s else s
  | none => s

/-- The own segment is taken (R7, R8, R14); the segment emitted in its place goes with the state. -/
def takeOwn (x : Segment) (others : Nat) (s : State) : Segment × State :=
  let carried := readCommand x.body
  let t := s.modTrunk fun u => { u with rejected := carried.isNone }
  match t.fittingParts others with
  | none => (x, s)
  | some k =>
    (t.replySegment k,
     match carried with
     | some c => actOn c k (t.afterBuild k)
     | none => t.afterBuild k)

/-- A broadcast segment is taken (R10). -/
def takeBroadcast (x : Segment) (s : State) : State :=
  match readCommand x.body with
  | some ⟨_, some q⟩ => if q.broadcasts then takeRequest .broadcast q s else s
  | _ => s

/-- The segments in frame order; `seen` once the own segment has stood (R6, R7). -/
def takeSegments (length : Nat) : Bool → List Segment → State → List Segment × State
  | _, [], s => ([], s)
  | seen, x :: xs, s =>
    let own := !x.isReply && x.address == s.trunk.address && !seen
    let r : Segment × State :=
      if !x.isReply && x.address == 31 then (x, takeBroadcast x s)
      else if own then takeOwn x (length - x.words.length) s
      else (x, s)
    let rest := takeSegments length (seen || own) xs r.2
    (r.1 :: rest.1, rest.2)

/-! ### Frames (R1 to R6, R15) -/

/-- Emit a frame downstream (R1). -/
def emit (ws : List Word) (s : State) : State := s.modTrunk fun t => { t with downstream := t.downstream ++ [ws] }

/-- A good frame is heard: the silence timer restarts and the mode becomes RUN; a CYCLIC frame also records the arrival mode
and sets the cycle count, and TRUNK_RESTORED follows (R3, R6, R15). -/
def heard (cycle : Option Word) (s : State) : State :=
  let old := s.trunk
  let s := s.modTrunk fun t =>
    { t with silence := ms s.unit.junction.silenceTime, mode := .run, localCycle := none,
             arrivalMode := if cycle.isSome then old.mode else t.arrivalMode, cycle := cycle.getD t.cycle }
  if old.mode == .localMode then s.post .trunkRestored 0 (BitVec.ofNat 16 old.localCycles) else s

/-- A frame with its check word (R2). -/
def withCheck (ws : List Word) : List Word := ws ++ [crc16 ws]

/-- A good CYCLIC frame (R4, R6). -/
def takeCyclic (header cycle : Word) (ws : List Word) (s : State) : State :=
  let s := heard (some cycle) s
  match walk (header.extractLsb' 0 5).toNat (ws.drop 2).dropLast with
  | none => emit ws (triggerAll s)
  | some segments =>
    let r := takeSegments (ws.length + 1) false segments s
    emit (withCheck (header :: cycle :: r.1.flatMap Segment.words)) (triggerAll r.2)

/-- A frame arrives (R1 to R6). -/
def takeFrame (ws : List Word) (s : State) : State :=
  if !s.active || !goodFrame ws then emit ws s
  else match ws with
    | header :: cycle :: _ =>
      if header.extractLsb' 12 4 = 1 then takeCyclic header cycle ws s else emit ws (heard none s)
    | _ => emit ws s

/-! ### Timers (R15, R16) -/

/-- The silence timer expires: the part enters LOCAL (R15). -/
def silenceExpired (s : State) : State :=
  if s.trunk.silence.isSome && s.trunk.mode != .localMode then
    let left := s.trunk.mode
    let s := s.modTrunk fun t =>
      { t with mode := .localMode, silence := none, localCycles := 0, localCycle := ms s.unit.junction.localCycle }
    trunkRamps (s.post .trunkLost 0 (BitVec.ofNat 16 left.ctorIdx))
  else s

/-- The local cycle timer expires (R16). -/
def localCycleExpired (s : State) : State :=
  if s.trunk.localCycle.isSome && s.trunk.mode == .localMode then
    triggerAll (s.modTrunk fun t =>
      { t with cycle := t.cycle + 1, localCycles := min 65535 (t.localCycles + 1),
               localCycle := ms s.unit.junction.localCycle })
  else s

/-! ### Hard reset (R5, R19) -/

/-- Hard reset with the sampled straps: what stands outside the part, the raw pin levels and the waiting commands, is as it
was (log entries 2, 26). -/
def hardReset (straps : BitVec 5) (s : State) : State :=
  let t := State.reset.modTrunk fun u => { u with address := straps }
  let t := if t.active then t else t.modTrunk fun u => { u with silence := none }
  { t with pins := Vector.ofFn fun p : Fin 32 => { Pin.reset with raw := s.pins[p.val].raw }, pending := s.pending,
           freeSeq := s.freeSeq }

end State

end Sys2Proof.Machine
end

