-- ==== Sys2Proof/Machine/Commands.lean ====
section
/-! DEFINITION. The object commands, the calls and OUTPUT_SET (R23). -/

namespace Sys2Proof.Machine

/-- SET_ALARM (R125). -/
def execSetAlarm (src : Source) (tag : Byte) (zone : Word) (s : State) : Host.Outcome State Fault Refusal :=
  .next (s.execute src Opcode.zoneCommand.code tag (State.onObject (number? 8 zone) State.setAlarmZone))

/-- EVACUATE (R125). -/
def execEvacuate (src : Source) (tag : Byte) (zone : Word) (s : State) : Host.Outcome State Fault Refusal :=
  .next (s.execute src Opcode.zoneCommand.code tag (State.onObject (number? 8 zone) State.evacuateZone))

/-- CLEAR (R126). -/
def execClear (src : Source) (tag : Byte) (zone : Word) (s : State) : Host.Outcome State Fault Refusal :=
  .next (s.execute src Opcode.zoneCommand.code tag (State.onObject (number? 8 zone) State.clearZone))

/-- ISOLATE (R127). -/
def execIsolate (src : Source) (tag : Byte) (zone : Word) (s : State) : Host.Outcome State Fault Refusal :=
  .next (s.execute src Opcode.zoneCommand.code tag (State.onObject (number? 8 zone) State.isolateZone))

/-- RESTORE (R127). -/
def execRestore (src : Source) (tag : Byte) (zone : Word) (s : State) : Host.Outcome State Fault Refusal :=
  .next (s.execute src Opcode.zoneCommand.code tag (State.onObject (number? 8 zone) State.restoreZone))

/-- DOOR_CLOSE (R138). -/
def execDoorClose (tag : Byte) (door : Word) (s : State) : Host.Outcome State Fault Refusal :=
  .next (s.execute .own Opcode.doorCommand.code tag (State.onObject (number? 24 door) State.doorCloseOn))

/-- DOOR_REOPEN (R146). -/
def execDoorReopen (tag : Byte) (door : Word) (s : State) : Host.Outcome State Fault Refusal :=
  .next (s.execute .own Opcode.doorCommand.code tag (State.onObject (number? 24 door) State.doorReopenOn))

/-- DOOR_DISABLE (R136). -/
def execDoorDisable (tag : Byte) (door : Word) (s : State) : Host.Outcome State Fault Refusal :=
  .next (s.execute .own Opcode.doorCommand.code tag (State.onObject (number? 24 door) State.doorDisableOn))

/-- DOOR_ENABLE (R136). -/
def execDoorEnable (tag : Byte) (door : Word) (s : State) : Host.Outcome State Fault Refusal :=
  .next (s.execute .own Opcode.doorCommand.code tag (State.onObject (number? 24 door) State.doorEnableOn))

/-- DOOR_ACK_FAULT (R148). -/
def execDoorAckFault (tag : Byte) (door : Word) (s : State) : Host.Outcome State Fault Refusal :=
  .next (s.execute .own Opcode.doorCommand.code tag (State.onObject (number? 24 door) State.doorAckOn))

/-- RAMP_STOP (R168). -/
def execRampStop (tag : Byte) (ramp : Word) (s : State) : Host.Outcome State Fault Refusal :=
  .next (s.execute .own Opcode.rampCommand.code tag (State.onObject (number? 2 ramp) State.rampStopOn))

/-- RAMP_ACK_FAULT (R169). -/
def execRampAckFault (tag : Byte) (ramp : Word) (s : State) : Host.Outcome State Fault Refusal :=
  .next (s.execute .own Opcode.rampCommand.code tag (State.onObject (number? 2 ramp) State.rampAckOn))

/-- RAMP_DISABLE (R158). -/
def execRampDisable (tag : Byte) (ramp : Word) (s : State) : Host.Outcome State Fault Refusal :=
  .next (s.execute .own Opcode.rampCommand.code tag (State.onObject (number? 2 ramp) State.rampDisableOn))

/-- RAMP_ENABLE (R158). -/
def execRampEnable (tag : Byte) (ramp : Word) (s : State) : Host.Outcome State Fault Refusal :=
  .next (s.execute .own Opcode.rampCommand.code tag (State.onObject (number? 2 ramp) State.rampEnableOn))

/-- BRANCH_ENABLE (R42). -/
def execBranchEnable (tag : Byte) (branch : Word) (s : State) : Host.Outcome State Fault Refusal :=
  .next (s.execute .own Opcode.branchCommand.code tag (State.onObject (index? 4 branch) State.enableBranch))

/-- BRANCH_DISABLE (R42). -/
def execBranchDisable (tag : Byte) (branch : Word) (s : State) : Host.Outcome State Fault Refusal :=
  .next (s.execute .own Opcode.branchCommand.code tag (State.onObject (index? 4 branch) State.branchDisableOn))

/-- CALL_POST (R182). -/
def execCallPost (tag : Byte) (payload : List Word) (s : State) : Host.Outcome State Fault Refusal :=
  .next (s.execute .own Opcode.callPost.code tag (State.callPost payload))

/-- CALL_CANCEL (R190). -/
def execCallCancel (src : Source) (tag : Byte) (callTag : Word) (s : State) : Host.Outcome State Fault Refusal :=
  .next (s.execute src Opcode.callCancel.code tag (State.callCancel callTag))

/-- OUTPUT_SET_ON (R84). -/
def execOutputSetOn (tag : Byte) (pin : Word) (s : State) : Host.Outcome State Fault Refusal :=
  .next (s.execute .own Opcode.outputSet.code tag (State.onObject (index? 32 pin) fun p => State.setOutput p .on))

/-- The setting of a flash pair. -/
def flashSetting : FlashPair → OutputSetting
  | .flash1 => .flash1
  | .flash2 => .flash2

/-- OUTPUT_SET_FLASH (R84). -/
def execOutputSetFlash (tag : Byte) (pin : Word) (pair : FlashPair) (s : State) : Host.Outcome State Fault Refusal :=
  .next (s.execute .own Opcode.outputSet.code tag (State.onObject (index? 32 pin) fun p => State.setOutput p (flashSetting pair)))

/-- OUTPUT_SET_OFF (R84). -/
def execOutputSetOff (tag : Byte) (pin : Word) (s : State) : Host.Outcome State Fault Refusal :=
  .next (s.execute .own Opcode.outputSet.code tag (State.onObject (index? 32 pin) fun p => State.setOutput p .off))

end Sys2Proof.Machine
end

