-- ==== Sys2Proof/Machine/Events.lean ====
section
/-! DEFINITION. The events that reach the part from its chains, pins, channels and timers. -/

namespace Sys2Proof.Machine

/-- BURST_END (R53). -/
def execBurstEnd (branch : BranchId) (ret : ReturnStream) (s : State) : Host.Outcome State Fault Refusal :=
  .next (s.endBurst branch ret)

/-- RETURN_LINE_CONTENTION (R59). -/
def execReturnLineContention (branch : BranchId) (s : State) : Host.Outcome State Fault Refusal :=
  .next (s.contend branch)

/-- RAW_INPUT_CHANGE (R79). -/
def execRawInputChange (pin : PinId) (level : Bool) (s : State) : Host.Outcome State Fault Refusal :=
  .next (s.rawChange pin level)

/-- INPUT_FILTER_EXPIRY (R79). -/
def execInputFilterExpiry (pin : PinId) (s : State) : Host.Outcome State Fault Refusal :=
  .next (s.filterExpired pin)

/-- STALL_COUNT_REACHED (R107). -/
def execStallCountReached (channel : ChanId) (s : State) : Host.Outcome State Fault Refusal :=
  .next (s.stallReached channel)

/-- PWM_PERIOD_START (R100). -/
def execPwmPeriodStart (pair : PairId) (s : State) : Host.Outcome State Fault Refusal := .next (s.pairPeriod pair)

/-- PWM_DUTY_END (R100). -/
def execPwmDutyEnd (pair : PairId) (s : State) : Host.Outcome State Fault Refusal := .next (s.pairDutyEnd pair)

/-- CHIME_ON_EXPIRY (R110). -/
def execChimeOnExpiry (s : State) : Host.Outcome State Fault Refusal := .next (s.burstOver)

/-- CHIME_OFF_EXPIRY (R110). -/
def execChimeOffExpiry (s : State) : Host.Outcome State Fault Refusal := .next (s.pauseOver)

/-- LOAD_GRANT (R87; log entry 18). -/
def execLoadGrant (s : State) : Host.Outcome State Fault Refusal := .next (State.tell State.signal s.settle)

/-- WINDOW_TIMER_EXPIRY (R120). -/
def execWindowTimerExpiry (zone : ZoneId) (s : State) : Host.Outcome State Fault Refusal :=
  .next (s.windowExpired zone)

/-- MAGNET_WARNING_EXPIRY (R140). -/
def execMagnetWarningExpiry (door : DoorId) (s : State) : Host.Outcome State Fault Refusal :=
  .next (s.warningExpired door .magnet)

/-- LATCH_WARNING_EXPIRY (R141). -/
def execLatchWarningExpiry (door : DoorId) (s : State) : Host.Outcome State Fault Refusal :=
  .next (s.warningExpired door .latch)

/-- RELEASE_PULSE_EXPIRY (R141). -/
def execReleasePulseExpiry (door : DoorId) (s : State) : Host.Outcome State Fault Refusal :=
  .next (s.pulseExpired door)

/-- TRAVEL_TIMER_EXPIRY (R142). -/
def execTravelTimerExpiry (door : DoorId) (s : State) : Host.Outcome State Fault Refusal :=
  .next (s.travelExpired door)

/-- CREW_HOLD_EXPIRY (R145). -/
def execCrewHoldExpiry (door : DoorId) (s : State) : Host.Outcome State Fault Refusal := .next (s.holdExpired door)

/-- REOPEN_TIMER_EXPIRY (R147). -/
def execReopenTimerExpiry (door : DoorId) (s : State) : Host.Outcome State Fault Refusal :=
  .next (s.reopenExpired door)

/-- RUN_GRACE_EXPIRY (R160). -/
def execRunGraceExpiry (ramp : RampId) (s : State) : Host.Outcome State Fault Refusal := .next (s.graceExpired ramp)

/-- UNLOCK_TIMER_EXPIRY (R163). -/
def execUnlockTimerExpiry (ramp : RampId) (s : State) : Host.Outcome State Fault Refusal :=
  .next (s.unlockExpired ramp)

/-- LOCK_TIMER_EXPIRY (R166). -/
def execLockTimerExpiry (ramp : RampId) (s : State) : Host.Outcome State Fault Refusal := .next (s.lockExpired ramp)

/-- HOLD_TIMER_EXPIRY (R188). -/
def execHoldTimerExpiry (zone : ZoneId) (s : State) : Host.Outcome State Fault Refusal :=
  .next (s.presentationHeld zone)

/-- CLIP_TIMER_EXPIRY (R187). -/
def execClipTimerExpiry (zone : ZoneId) (s : State) : Host.Outcome State Fault Refusal := .next (s.clipExpired zone)

/-- GAP_TIMER_EXPIRY (R185). -/
def execGapTimerExpiry (callTag : Byte) (zone : ZoneId) (s : State) : Host.Outcome State Fault Refusal :=
  .next (s.gapExpired callTag zone)

end Sys2Proof.Machine
end

