-- ==== Sys2Proof/Machine/Frames.lean ====
section
/-! DEFINITION. The commands that reach the Trunk Port: resets, frames and its two timers. -/

namespace Sys2Proof.Machine

/-- HARD_RESET (R19). -/
def execHardReset (straps : BitVec 5) (s : State) : Host.Outcome State Fault Refusal := .next (s.hardReset straps)

/-- FRAME_ARRIVAL (R1). -/
def execFrameArrival (words : List Word) (s : State) : Host.Outcome State Fault Refusal := .next (s.takeFrame words)

/-- SILENCE_TIMER_EXPIRY (R15). -/
def execSilenceTimerExpiry (s : State) : Host.Outcome State Fault Refusal := .next (s.silenceExpired)

/-- LOCAL_CYCLE_TIMER_EXPIRY (R16). -/
def execLocalCycleTimerExpiry (s : State) : Host.Outcome State Fault Refusal := .next (s.localCycleExpired)

end Sys2Proof.Machine
end

