-- ==== Sys2Proof/Machine/Writes.lean ====
section
/-! DEFINITION. The requests on tables, blocks, the lock and the whole part (2.1 to 2.7). -/

namespace Sys2Proof.Machine

/-- UNKNOWN_REQUEST (R21): the reply echoes the opcode as received. -/
def execUnknownRequest (opcode tag : Byte) (_payload : List Word) (s : State) : Host.Outcome State Fault Refusal :=
  .next (s.execute .own opcode tag fun s => (s, .unknown))

/-- JUNCTION_WRITE (R29). -/
def execJunctionWrite (tag : Byte) (index : Word) (fields : List Word) (s : State) : Host.Outcome State Fault Refusal :=
  .next (s.execute .own Opcode.tableWrite.code tag (State.putEntry (index? 1 index) (readJunction fields) State.putJunction))

/-- BRANCH_WRITE (R40). -/
def execBranchWrite (tag : Byte) (index : Word) (fields : List Word) (s : State) : Host.Outcome State Fault Refusal :=
  .next (s.execute .own Opcode.tableWrite.code tag (State.putEntry (index? 4 index) (readBranch fields) State.putBranch))

/-- POSITION_WRITE (R45, R46). -/
def execPositionWrite (tag : Byte) (index : Word) (fields : List Word) (s : State) : Host.Outcome State Fault Refusal :=
  .next (s.execute .own Opcode.tableWrite.code tag (State.putEntry (index? 64 index) (readPosition fields) State.putPosition))

/-- ROUTE_WRITE (R65, R66). -/
def execRouteWrite (tag : Byte) (index : Word) (fields : List Word) (s : State) : Host.Outcome State Fault Refusal :=
  .next (s.execute .own Opcode.tableWrite.code tag (State.putRoute index fields))

/-- PIN_WRITE (R78). -/
def execPinWrite (tag : Byte) (index : Word) (fields : List Word) (s : State) : Host.Outcome State Fault Refusal :=
  .next (s.execute .own Opcode.tableWrite.code tag (State.putEntry (index? 32 index) (readPin fields) State.putPin))

/-- CHANNEL_WRITE (R98). -/
def execChannelWrite (tag : Byte) (index : Word) (fields : List Word) (s : State) : Host.Outcome State Fault Refusal :=
  .next (s.execute .own Opcode.tableWrite.code tag (State.putEntry (index? 12 index) (readChannel fields) State.putChannel))

/-- CHIME_WRITE (R109). -/
def execChimeWrite (tag : Byte) (index : Word) (fields : List Word) (s : State) : Host.Outcome State Fault Refusal :=
  .next (s.execute .own Opcode.tableWrite.code tag (State.putEntry (index? 8 index) (readChime fields) State.putChime))

/-- ZONE_WRITE (R116). -/
def execZoneWrite (tag : Byte) (index : Word) (fields : List Word) (s : State) : Host.Outcome State Fault Refusal :=
  .next (s.execute .own Opcode.tableWrite.code tag (State.putEntry (number? 8 index) (readZone fields) State.putZone))

/-- DOOR_WRITE (R133). -/
def execDoorWrite (tag : Byte) (index : Word) (fields : List Word) (s : State) : Host.Outcome State Fault Refusal :=
  .next (s.execute .own Opcode.tableWrite.code tag (State.putEntry (number? 24 index) (readDoor fields) State.putDoor))

/-- RAMP_WRITE (R155). -/
def execRampWrite (tag : Byte) (index : Word) (fields : List Word) (s : State) : Host.Outcome State Fault Refusal :=
  .next (s.execute .own Opcode.tableWrite.code tag (State.putEntry (number? 2 index) (readRamp fields) State.putRamp))

/-- PERMIT_WRITE (R179). -/
def execPermitWrite (tag : Byte) (index : Word) (fields : List Word) (s : State) : Host.Outcome State Fault Refusal :=
  .next (s.execute .own Opcode.tableWrite.code tag (State.putEntry (index? 16 index) (readPermit fields) State.putPermit))

/-- TABLE_READ (R27). -/
def execTableRead (tag : Byte) (table index : Word) (s : State) : Host.Outcome State Fault Refusal :=
  .next (s.execute .own Opcode.tableRead.code tag (State.tableRead table index))

/-- BLOCK_WRITE (R31). -/
def execBlockWrite (tag : Byte) (payload : List Word) (s : State) : Host.Outcome State Fault Refusal :=
  .next (s.execute .own Opcode.blockWrite.code tag (State.blockWrite payload))

/-- STATE_READ (R32). -/
def execStateRead (tag : Byte) (kind index : Word) (s : State) : Host.Outcome State Fault Refusal :=
  .next (s.execute .own Opcode.stateRead.code tag (State.stateRead kind index))

/-- CONFIG_LOCK (R30). -/
def execConfigLock (tag : Byte) (payload : List Word) (s : State) : Host.Outcome State Fault Refusal :=
  .next (s.execute .own Opcode.configLock.code tag (State.configLock payload))

/-- RESTART (R35). -/
def execRestart (src : Source) (tag : Byte) (payload : List Word) (s : State) : Host.Outcome State Fault Refusal :=
  .next (s.execute src Opcode.restart.code tag (State.restartRequest payload))

end Sys2Proof.Machine
end

