-- ==== Sys2Proof/Machine/Dispatch.lean ====
section
/-! DEFINITION. One arm for each command. -/

namespace Sys2Proof.Machine

def exec (i : Instr) (s : State) : Host.Outcome State Fault Refusal :=
  match i with
  | .hardReset straps => Sys2Proof.Machine.execHardReset straps s
  | .frameArrival words => Sys2Proof.Machine.execFrameArrival words s
  | .unknownRequest opcode tag payload => Sys2Proof.Machine.execUnknownRequest opcode tag payload s
  | .junctionWrite tag index fields => Sys2Proof.Machine.execJunctionWrite tag index fields s
  | .branchWrite tag index fields => Sys2Proof.Machine.execBranchWrite tag index fields s
  | .positionWrite tag index fields => Sys2Proof.Machine.execPositionWrite tag index fields s
  | .routeWrite tag index fields => Sys2Proof.Machine.execRouteWrite tag index fields s
  | .pinWrite tag index fields => Sys2Proof.Machine.execPinWrite tag index fields s
  | .channelWrite tag index fields => Sys2Proof.Machine.execChannelWrite tag index fields s
  | .chimeWrite tag index fields => Sys2Proof.Machine.execChimeWrite tag index fields s
  | .zoneWrite tag index fields => Sys2Proof.Machine.execZoneWrite tag index fields s
  | .doorWrite tag index fields => Sys2Proof.Machine.execDoorWrite tag index fields s
  | .rampWrite tag index fields => Sys2Proof.Machine.execRampWrite tag index fields s
  | .permitWrite tag index fields => Sys2Proof.Machine.execPermitWrite tag index fields s
  | .tableRead tag table index => Sys2Proof.Machine.execTableRead tag table index s
  | .blockWrite tag payload => Sys2Proof.Machine.execBlockWrite tag payload s
  | .stateRead tag kind index => Sys2Proof.Machine.execStateRead tag kind index s
  | .configLock tag payload => Sys2Proof.Machine.execConfigLock tag payload s
  | .restart src tag payload => Sys2Proof.Machine.execRestart src tag payload s
  | .setAlarm src tag zone => Sys2Proof.Machine.execSetAlarm src tag zone s
  | .evacuate src tag zone => Sys2Proof.Machine.execEvacuate src tag zone s
  | .clear src tag zone => Sys2Proof.Machine.execClear src tag zone s
  | .isolate src tag zone => Sys2Proof.Machine.execIsolate src tag zone s
  | .restore src tag zone => Sys2Proof.Machine.execRestore src tag zone s
  | .doorClose tag door => Sys2Proof.Machine.execDoorClose tag door s
  | .doorReopen tag door => Sys2Proof.Machine.execDoorReopen tag door s
  | .doorDisable tag door => Sys2Proof.Machine.execDoorDisable tag door s
  | .doorEnable tag door => Sys2Proof.Machine.execDoorEnable tag door s
  | .doorAckFault tag door => Sys2Proof.Machine.execDoorAckFault tag door s
  | .rampStop tag ramp => Sys2Proof.Machine.execRampStop tag ramp s
  | .rampAckFault tag ramp => Sys2Proof.Machine.execRampAckFault tag ramp s
  | .rampDisable tag ramp => Sys2Proof.Machine.execRampDisable tag ramp s
  | .rampEnable tag ramp => Sys2Proof.Machine.execRampEnable tag ramp s
  | .branchEnable tag branch => Sys2Proof.Machine.execBranchEnable tag branch s
  | .branchDisable tag branch => Sys2Proof.Machine.execBranchDisable tag branch s
  | .callPost tag payload => Sys2Proof.Machine.execCallPost tag payload s
  | .callCancel src tag callTag => Sys2Proof.Machine.execCallCancel src tag callTag s
  | .outputSetOn tag pin => Sys2Proof.Machine.execOutputSetOn tag pin s
  | .outputSetFlash tag pin pair => Sys2Proof.Machine.execOutputSetFlash tag pin pair s
  | .outputSetOff tag pin => Sys2Proof.Machine.execOutputSetOff tag pin s
  | .silenceTimerExpiry => Sys2Proof.Machine.execSilenceTimerExpiry s
  | .localCycleTimerExpiry => Sys2Proof.Machine.execLocalCycleTimerExpiry s
  | .burstEnd branch ret => Sys2Proof.Machine.execBurstEnd branch ret s
  | .returnLineContention branch => Sys2Proof.Machine.execReturnLineContention branch s
  | .rawInputChange pin level => Sys2Proof.Machine.execRawInputChange pin level s
  | .inputFilterExpiry pin => Sys2Proof.Machine.execInputFilterExpiry pin s
  | .stallCountReached channel => Sys2Proof.Machine.execStallCountReached channel s
  | .pwmPeriodStart pair => Sys2Proof.Machine.execPwmPeriodStart pair s
  | .pwmDutyEnd pair => Sys2Proof.Machine.execPwmDutyEnd pair s
  | .chimeOnExpiry => Sys2Proof.Machine.execChimeOnExpiry s
  | .chimeOffExpiry => Sys2Proof.Machine.execChimeOffExpiry s
  | .loadGrant => Sys2Proof.Machine.execLoadGrant s
  | .windowTimerExpiry zone => Sys2Proof.Machine.execWindowTimerExpiry zone s
  | .magnetWarningExpiry door => Sys2Proof.Machine.execMagnetWarningExpiry door s
  | .latchWarningExpiry door => Sys2Proof.Machine.execLatchWarningExpiry door s
  | .releasePulseExpiry door => Sys2Proof.Machine.execReleasePulseExpiry door s
  | .travelTimerExpiry door => Sys2Proof.Machine.execTravelTimerExpiry door s
  | .crewHoldExpiry door => Sys2Proof.Machine.execCrewHoldExpiry door s
  | .reopenTimerExpiry door => Sys2Proof.Machine.execReopenTimerExpiry door s
  | .runGraceExpiry ramp => Sys2Proof.Machine.execRunGraceExpiry ramp s
  | .unlockTimerExpiry ramp => Sys2Proof.Machine.execUnlockTimerExpiry ramp s
  | .lockTimerExpiry ramp => Sys2Proof.Machine.execLockTimerExpiry ramp s
  | .holdTimerExpiry zone => Sys2Proof.Machine.execHoldTimerExpiry zone s
  | .clipTimerExpiry zone => Sys2Proof.Machine.execClipTimerExpiry zone s
  | .gapTimerExpiry callTag zone => Sys2Proof.Machine.execGapTimerExpiry callTag zone s

end Sys2Proof.Machine
end

