-- ==== Sys2Proof/Machine/Ticks.lean ====
section
/-! DEFINITION. The passing of one microsecond (log entry 5): timers run down and counts run up; nothing expires by itself,
since an expiry comes as its command. -/

namespace Sys2Proof.Machine

/-- A running timer is one µs nearer its end. -/
def Timer.tick (t : Timer) : Timer := t.map fun n => n - 1

/-- The master's count within its period, by its clock (R100; log entry 27). -/
def PwmRun.tick (x : PwmRun) (clock : CountClock) : PwmRun :=
  let onward := { x with sub := 0, count := min (x.count + 1) (x.period - 1) }
  match clock with
  | .micro => onward
  | .milli => if x.sub + 1 < 1000 then { x with sub := x.sub + 1 } else onward

/-- A channel advances as its mode lays down (R100, R106). -/
def Channel.tick (x : Channel) : Channel :=
  match x.run with
  | .pwm p => { x with run := .pwm (p.tick x.cfg.clock) }
  | .capturing w => { x with run := .capturing { w with count := min (w.count + 1) w.stallCount } }
  | _ => x

def Presentation.tick (x : Presentation) : Presentation :=
  { x with holdTimer := Timer.tick x.holdTimer, clipTimer := Timer.tick x.clipTimer }

def Call.tick (x : Call) : Call := { x with items := x.items.map fun i => { i with gap := Timer.tick i.gap } }

/-- One µs passes. -/
def State.tick (s : State) : State :=
  { s with
    trunk := { s.trunk with silence := Timer.tick s.trunk.silence, localCycle := Timer.tick s.trunk.localCycle },
    branches := updAll s.branches fun x => { x with left := Timer.tick x.left },
    pins := updAll s.pins fun x => { x with filterTimer := Timer.tick x.filterTimer },
    channels := updAll s.channels Channel.tick,
    player := { s.player with timer := Timer.tick s.player.timer },
    zones := updAll s.zones fun x => { x with window := Timer.tick x.window },
    doors := updAll s.doors fun x => { x with timer := Timer.tick x.timer },
    ramps := updAll s.ramps fun x => { x with grace := Timer.tick x.grace, timer := Timer.tick x.timer },
    calls := { s.calls with
      queue := s.calls.queue.map Call.tick,
      presenting := updAll s.calls.presenting fun p => p.map Presentation.tick } }

end Sys2Proof.Machine
end

