-- ==== Sys2Proof/Safety.lean ====
section
/-! DEFINITION. The words in which the statements are written: the tables as written, the ranges of their records, what a
command leaves as it was, and the laws that the manual says its blocks keep. -/

namespace Sys2Proof

/-- The opcode and tag of a request that came in the own segment (12.2). -/
def Instr.ownRequest : Instr → Option (Byte × Byte)
  | .unknownRequest op tag _ => some (op, tag)
  | .junctionWrite tag _ _ | .branchWrite tag _ _ | .positionWrite tag _ _ | .routeWrite tag _ _ | .pinWrite tag _ _
  | .channelWrite tag _ _ | .chimeWrite tag _ _ | .zoneWrite tag _ _ | .doorWrite tag _ _ | .rampWrite tag _ _
  | .permitWrite tag _ _ => some (0, tag)
  | .tableRead tag _ _ => some (1, tag)
  | .blockWrite tag _ => some (2, tag)
  | .stateRead tag _ _ => some (3, tag)
  | .configLock tag _ => some (4, tag)
  | .restart .own tag _ => some (5, tag)
  | .setAlarm .own tag _ | .evacuate .own tag _ | .clear .own tag _ | .isolate .own tag _ | .restore .own tag _ =>
    some (6, tag)
  | .doorClose tag _ | .doorReopen tag _ | .doorDisable tag _ | .doorEnable tag _ | .doorAckFault tag _ => some (7, tag)
  | .rampStop tag _ | .rampAckFault tag _ | .rampDisable tag _ | .rampEnable tag _ => some (8, tag)
  | .branchEnable tag _ | .branchDisable tag _ => some (9, tag)
  | .callPost tag _ => some (10, tag)
  | .callCancel .own tag _ => some (11, tag)
  | .outputSetOn tag _ | .outputSetFlash tag _ _ | .outputSetOff tag _ => some (12, tag)
  | _ => none

/-- Requests that came in a broadcast segment (R10). -/
def Instr.broadcasts : Instr → Bool
  | .restart .broadcast _ _ | .setAlarm .broadcast _ _ | .evacuate .broadcast _ _ | .clear .broadcast _ _
  | .isolate .broadcast _ _ | .restore .broadcast _ _ | .callCancel .broadcast _ _ => true
  | _ => false

/-- The door that a command or a timer concerns. -/
def Instr.door? : Instr → Option DoorId
  | .doorClose _ w | .doorReopen _ w | .doorDisable _ w | .doorEnable _ w | .doorAckFault _ w => Machine.number? 24 w
  | .magnetWarningExpiry d | .latchWarningExpiry d | .releasePulseExpiry d | .travelTimerExpiry d | .crewHoldExpiry d
  | .reopenTimerExpiry d => some d
  | _ => none

/-- The ramp that a command or a timer concerns. -/
def Instr.ramp? : Instr → Option RampId
  | .rampStop _ w | .rampAckFault _ w | .rampDisable _ w | .rampEnable _ w => Machine.number? 2 w
  | .runGraceExpiry r | .unlockTimerExpiry r | .lockTimerExpiry r => some r
  | _ => none

/-- The zone that a command or a timer of the Zone Unit concerns. -/
def Instr.zone? : Instr → Option ZoneId
  | .setAlarm _ _ w | .evacuate _ _ w | .clear _ _ w | .isolate _ _ w | .restore _ _ w => Machine.number? 8 w
  | .windowTimerExpiry z => some z
  | _ => none

/-- Commands and timers of calls and chimes. -/
def Instr.onCalls : Instr → Bool
  | .callPost _ _ | .callCancel _ _ _ | .chimeOnExpiry | .chimeOffExpiry | .holdTimerExpiry _ | .clipTimerExpiry _
  | .gapTimerExpiry _ _ => true
  | _ => false

/-- Commands and timers of doors, ramps and calls, with the grants and the stall notices that reach them. -/
def Instr.onObjects : Instr → Bool
  | .doorClose _ _ | .doorReopen _ _ | .doorDisable _ _ | .doorEnable _ _ | .doorAckFault _ _ => true
  | .rampStop _ _ | .rampAckFault _ _ | .rampDisable _ _ | .rampEnable _ _ => true
  | .loadGrant | .stallCountReached _ => true
  | c => c.onCalls || c.door?.isSome || c.ramp?.isSome

end Sys2Proof

namespace Sys2Proof.Machine

/-- A position of a burst is judged when the previous burst's record holds it in the same class (R54). -/
def BurstRecord.judges (p : BurstRecord) (e : BurstEntry) : Bool :=
  p.entries.any fun y => y.place == e.place && y.cls == e.cls

/-! ### The tables (2.2) and what an operation keeps of the state -/

/-- Everything that requests write and the part keeps as written: the lock, the eleven tables and the sign blocks. -/
structure Tables where
  lock : Bool
  junction : JunctionCfg
  branches : Vector BranchCfg 4
  positions : Vector PositionCfg 64
  routes : Vector RouteEntry 64
  pins : Vector PinCfg 32
  channels : Vector ChannelCfg 12
  chimes : Vector ChimeCfg 8
  zones : Vector ZoneCfg 8
  doors : Vector DoorCfg 24
  ramps : Vector RampCfg 2
  permits : Vector PermitEntry 16
  blocks : Vector SignBlock 8
  deriving DecidableEq, Repr

namespace State

/-- The tables of a state. -/
def tables (s : State) : Tables where
  lock := s.unit.lock
  junction := s.unit.junction
  branches := Vector.ofFn fun b => (s.branch b).cfg
  positions := Vector.ofFn fun n => (s.position n).cfg
  routes := Vector.ofFn fun i => (s.slot i).entry
  pins := Vector.ofFn fun p => (s.pin p).cfg
  channels := Vector.ofFn fun c => (s.channel c).cfg
  chimes := s.chimes
  zones := Vector.ofFn fun z => (s.zone z).cfg
  doors := Vector.ofFn fun d => (s.door d).cfg
  ramps := Vector.ofFn fun r => (s.ramp r).cfg
  permits := s.permits
  blocks := s.calls.blocks

/-- The queue of waiting commands and the trunk port are as they were. -/
def sameOutside (s t : State) : Prop := t.pending = s.pending ∧ t.trunk = s.trunk

/-- The chains, their positions and the slots are as they were. -/
def sameChains (s t : State) : Prop := t.branches = s.branches ∧ t.positions = s.positions ∧ t.slots = s.slots

/-- A grant may move this door: it waits in REOPENING or RELEASING for the grant of its claim (R141, R147). -/
def awaitsGrant (s : State) (d : DoorId) : Prop := (s.door d).state = .reopening ∨ (s.door d).state = .releasing

/-- Every door is as it was but those of a set and those that wait for a grant. -/
def otherDoorsKept (s t : State) (own : DoorId → Prop) : Prop := ∀ d, ¬own d → ¬s.awaitsGrant d → t.door d = s.door d

/-- Every ramp is as it was but those of a set and the active ones, which a grant moves on and a permit halts (R162, R178). -/
def otherRampsKept (s t : State) (own : RampId → Prop) : Prop :=
  ∀ r, ¬own r → (s.ramp r).state.isActive = false → t.ramp r = s.ramp r

/-- Whatever a command on doors, ramps and calls cannot touch is as it was: the trunk port, the tables, the chains, the pins
and the zones. -/
def fieldKept (s t : State) : Prop :=
  s.sameOutside t ∧ s.sameChains t ∧ t.tables = s.tables ∧ t.pins = s.pins ∧ t.zones = s.zones

/-- The pending management reply (R22). -/
def replied (t : State) (opcode tag : Byte) (result : Result) (payload : List Word) : Prop :=
  t.unit.reply = some ⟨opcode, tag, result, payload⟩

/-- A state with a reply pending. -/
def withReply (s : State) (opcode tag : Byte) (result : Result) (payload : List Word) : State :=
  s.modUnit fun u => { u with reply := some ⟨opcode, tag, result, payload⟩ }

/-- An event is the next one posted, where the queue has room for it (R36). -/
def postsFirst (s t : State) (kind : EventKind) (subject : Nat) (detail : Word) : Prop :=
  s.unit.events.length < 32 →
    s.unit.events ++ [⟨kind, BitVec.ofNat 8 subject, detail, s.trunk.cycle⟩] <+: t.unit.events

/-- An event of the command's stamp stands in the queue, unless the queue has overflowed (R36). -/
def posted (s t : State) (kind : EventKind) (subject : Nat) (detail : Word) : Prop :=
  t.unit.overflow = false → ⟨kind, BitVec.ofNat 8 subject, detail, s.trunk.cycle⟩ ∈ t.unit.events

/-- A pin that has taken a raw level as its filtered level (R79). -/
def levelTaken (s : State) (p : PinId) (level : Bool) : State :=
  s.modPin p fun x => { x with raw := level, filtered := level, filterTimer := none }

/-- No driven ramp's entry names a pin, so that a change of the pin halts none (R178). -/
def pinUnwatched (s : State) (p : PinId) : Prop :=
  ∀ r, ∀ k ∈ s.driveGuard r, s.namesSubject k (.pin p) = false

/-- The first character of a block that is not transparent, at or after a place (R193). -/
def nextPrinted (s : State) (k : BlockId) (start : Nat) (j : Fin 48) : Prop :=
  start ≤ j.val ∧ (s.signBlock k).chars[j.val].code ≠ 0
    ∧ ∀ i : Fin 48, start ≤ i.val → i < j → (s.signBlock k).chars[i.val].code = 0

/-- What a command on one zone leaves as it was. -/
def otherZonesKept (s t : State) (z : ZoneId) : Prop :=
  s.sameOutside t ∧ s.sameChains t ∧ t.tables = s.tables ∧ t.pins = s.pins ∧ ∀ y, y ≠ z → t.zone y = s.zone y

/-- No claim of the door stands. -/
def noDoorClaim (t : State) (d : DoorId) : Prop :=
  t.functionStanding (.doorHoldback d) = .none ∧ t.functionStanding (.doorRelease d) = .none

/-- A door moved within its close sequence. -/
def doorMoved (s : State) (d : DoorId) (dest : DoorState) (why : DoorReason) (timer : Timer) : Door :=
  { s.door d with state := dest, reason := why, timer := timer, retryPulse := false }

/-- A door at the start or the end of a close sequence, its counts at 0. -/
def doorSet (s : State) (d : DoorId) (dest : DoorState) (why : DoorReason) (timer : Timer) : Door :=
  ⟨(s.door d).cfg, dest, why, timer, 0, 0, false, false⟩

/-- A door that has entered CREW_HOLD (R144). -/
def doorHeld (s : State) (d : DoorId) : Door :=
  { s.door d with state := .crewHold, reason := .hold, timer := some ((s.door d).cfg.holdTime * 1000000),
                  holdsUsed := (s.door d).holdsUsed + 1, holdRequest := false, retryPulse := false }

/-- A door has entered service, or has left FAULT, in the state that its limits give (R135, R139, R148). That a door leaving FAULT
for WARNING has the reason ZONE is the model's choice (log entry 47). -/
def doorDerived (s t : State) (d : DoorId) : Prop :=
  (s.closedLimit d = true → s.openLimit d = false → t.door d = s.doorSet d .closed .service none ∧ t.noDoorClaim d)
    ∧ (s.closedLimit d = true → s.openLimit d = true → t.door d = s.doorSet d .fault .limits none ∧ t.noDoorClaim d)
    ∧ (s.closedLimit d = false → s.openLimit d = false →
        t.door d = s.doorSet d .closing .service (some ((s.door d).cfg.travel * 1000)) ∧ t.noDoorClaim d)
    ∧ (s.closedLimit d = false → s.openLimit d = true → s.mustClose d = true → 0 < (s.door d).cfg.warning →
        t.door d = s.doorSet d .warning .zone (some ((s.door d).cfg.warning * 1000)))
    ∧ (s.closedLimit d = false → s.openLimit d = true → s.mustClose d = true → (s.door d).cfg.warning = 0 →
        (s.door d).cfg.kind = .magnet →
        t.door d = s.doorSet d .closing .timer (some ((s.door d).cfg.travel * 1000)) ∧ t.noDoorClaim d)
    ∧ (s.closedLimit d = false → s.openLimit d = true → s.mustClose d = true → (s.door d).cfg.warning = 0 →
        (s.door d).cfg.kind = .latch →
        t.door d = s.doorSet d .releasing .timer (t.door d).timer
          ∧ ((s.pinOf (.doorRelease d)).isSome = true → t.functionStanding (.doorRelease d) ≠ .none))
    ∧ (s.closedLimit d = false → s.openLimit d = true → s.mustClose d = false → (s.door d).cfg.kind = .latch →
        t.door d = s.doorSet d .opened .service none)
    ∧ (s.closedLimit d = false → s.openLimit d = true → s.mustClose d = false → (s.door d).cfg.kind = .magnet →
        t.door d = s.doorSet d .reopening .service (some 30000000) ∨ t.door d = s.doorSet d .opened .limit none)

/-- A pin as a PIN write leaves it (R78, R81). -/
def pinWritten (s : State) (p : PinId) (x : PinCfg) : State :=
  s.modPin p fun y =>
    if x.function = y.cfg.function then { y with cfg := x }
    else { cfg := x, raw := y.raw, setting := .off, filterTimer := none,
           filtered := if x.function.isInput then y.raw else y.filtered }

/-- A branch whose burst has ended with no trigger held. -/
def branchEnded (s : State) (b : BranchId) (x : BurstRecord) (run : Nat) : Branch :=
  { s.branch b with state := .idle, burst := none, previous := some x, left := none, checkRun := run }

/-- The other branches, the tables and the trunk port are as they were. -/
def otherBranchesKept (s t : State) (b : BranchId) : Prop :=
  (∀ c, c ≠ b → t.branch c = s.branch c) ∧ t.tables = s.tables ∧ t.trunk = s.trunk

/-- A ramp that has come to a state without timers. -/
def rampStill (s : State) (r : RampId) (dest : RampState) (why : RampReason) : Ramp :=
  { s.ramp r with state := dest, reason := why, grace := none, timer := none }

/-- A ramp that has been halted: HELD for a reason, its motion and its timers ended, no drive claim, and RAMP_STATE posted
(R168, R171). -/
def rampHalted (s t : State) (r : RampId) (why : RampReason) : Prop :=
  t.ramp r = s.rampStill r .held why ∧ t.account.find (driveClaimant r) = none
    ∧ s.posted t .rampState (r.val + 1) (twoPart 8 why.ctorIdx)

/-- A full transfer of a target stands at its header, with no raster-only request and ERR count 0 (R193, R194). -/
def transferStarted (s : State) (n : PosId) (target : Option BlockId) : SignTransfer :=
  { s.transfer n with status := .running, target := target, next := none, rasterOnly := false, errors := 0,
                      carried := none, again := none }

/-- A raster refresh of a zone: each of its SIGN positions holds a raster-only request, or a full transfer of the zone's target
that has started instead, as it has where the target changed and the node is not told away (R191, R194). -/
def signsRefreshed (s t : State) (z : ZoneId) : Prop :=
  ∀ n ∈ s.positionsOf .sign z,
    t.transfer n = { s.transfer n with rasterOnly := true } ∧ (t.target z = s.target z ∨ (s.transfer n).away = true)
      ∨ (s.transfer n).away = false ∧ t.transfer n = s.transferStarted n (t.target z)

/-- A door that its zone's entry into alarm sends into the close sequence (R128 step 2). -/
def alarmCloses (s : State) (z : ZoneId) (d : DoorId) : Prop :=
  (s.zone z).cfg.autoClose = true ∧ (s.door d).cfg.enabled = true ∧ (s.door d).cfg.zone = z
    ∧ ((s.door d).state = .opened ∨ (s.door d).state = .reopening)

/-- What a zone's entry into ALARM or EVACUATE does to ramps, doors, the beacon and signs (R128; the ramps are halted together,
log entry 43). -/
def alarmFanOut (s t : State) (z : ZoneId) : Prop :=
  (∀ r, (s.ramp r).cfg.enabled = true → (s.ramp r).cfg.zone = z → (s.ramp r).state.driven = true → s.rampHalted t r .zone)
    ∧ (∀ r, (s.ramp r).state.driven = false → t.ramp r = s.ramp r)
    ∧ (∀ d, s.alarmCloses z d →
        s.posted t .doorState (d.val + 1) (twoPart 2 5)
        ∧ (0 < (s.door d).cfg.warning → t.door d = s.doorMoved d .warning .zone (some ((s.door d).cfg.warning * 1000)))
        ∧ ((s.door d).cfg.warning = 0 → (s.door d).cfg.kind = .magnet →
            t.door d = s.doorMoved d .closing .timer (some ((s.door d).cfg.travel * 1000)) ∧ t.noDoorClaim d)
        ∧ ((s.door d).cfg.warning = 0 → (s.door d).cfg.kind = .latch →
            t.door d = s.doorMoved d .releasing .timer (t.door d).timer
              ∧ ((s.pinOf (.doorRelease d)).isSome = true → t.functionStanding (.doorRelease d) ≠ .none)))
    ∧ s.otherDoorsKept t (s.alarmCloses z)
    ∧ ((s.pinOf (.zoneBeacon z)).isSome = true → t.functionStanding (.zoneBeacon z) ≠ .none)
    ∧ s.signsRefreshed t z

/-- A zone presents its internal alarm call afresh: the display target is the call's block or the idle display, and its PA
positions that are awaited have the alarm's PLAY waiting (R128, R185, R187, R192). -/
def alarmPresented (s t : State) (z : ZoneId) (clip : Option Nat) (block : Option BlockId) : Prop :=
  (t.presenting z).map Presentation.tag = some (alarmTag z)
    ∧ t.target z = (if block.isSome then block else (s.zone z).cfg.idleBlock)
    ∧ ∀ k, clip = some k → ∀ n ∈ s.paAwaited z, (t.paNode n).waiting = some (.play k (s.zone z).cfg.alarmLevel)

/-- Where no PLAY follows, the PA positions of a zone whose presentation ended uncounted have STOP waiting (R189). -/
def othersStopped (s t : State) (z : ZoneId) (clip : Option Nat) : Prop :=
  ∀ n ∈ s.positionsOf .pa z, clip = none ∨ n ∉ s.paAwaited z → (t.paNode n).waiting = some .stop

/-- A position of a burst whose reply is right, and which the table still holds enabled in the recorded class: the contents of
the reply (R54 to R56). -/
def rightFrom (s : State) (b : BranchId) (p : BurstRecord) (y : BurstEntry × ChainWord) : Option Word :=
  if p.judges y.1 && (s.position (posIndex b y.1.place)).cfg.enabled && (s.position (posIndex b y.1.place)).cfg.cls == y.1.cls
  then rightReply y.1.cls p.number y.2 else none

/-- A position of a burst whose reply is wrong or missing becomes ABSENT by it (R55). -/
def turnsAbsent (s : State) (b : BranchId) (p : BurstRecord) (e : BurstEntry) : Bool :=
  p.judges e && 2 ≤ (s.position (posIndex b e.place)).missRun && (s.position (posIndex b e.place)).presence != .absent

/-- The notice that a position of a burst is ABSENT: NODE_ABSENT, and what the owner of its class does (R61, R191). -/
def toldAbsent (s t : State) (n : PosId) : Prop :=
  (∀ k, s.logical n = some k →
      s.posted t .nodeAbsent n.val (twoPart k (if (s.position n).cfg.fixed then 1 else 0)))
    ∧ ((s.position n).cfg.cls = .sign →
        t.transfer n = { s.transfer n with status := .stopped, carried := none, again := none, away := true })
    ∧ ((s.position n).cfg.cls = .pa → (t.paNode n).waiting = none
        ∧ ∀ z q, t.presenting z = some q → q.phase = .clip → n ∉ q.awaited)

/-- A zone after a node of it was lost, or after none was. -/
def faultRaised (s : State) (z : ZoneId) (lost : Bool) : Zone :=
  if (s.zone z).state ≠ .unused ∧ lost = true then { s.zone z with fault := true } else s.zone z

/-- The state with what a frame without a request changes set back: the trunk port, the reply's drain, and the bursts that the
frame triggers. -/
def frameAside (s t : State) : State :=
  { t with trunk := s.trunk, unit := s.unit, branches := s.branches, positions := s.positions, slots := s.slots,
           calls := s.calls }

end State

/-! ### Requests and frames as commands -/

/-- A segment whose header declares the length of its body (12.1). -/
def Segment.sound (x : Segment) : Bool := (x.header.extractLsb' 0 10).toNat == x.body.length

/-- The words of segments, in order. -/
def segmentWords (xs : List Segment) : List Word := xs.flatMap Segment.words

/-- The words of a CYCLIC frame that carries segments (12.1). -/
def segmentFrame (cycle : Word) (xs : List Segment) : List Word :=
  State.withCheck (BitVec.ofNat 16 (0x1000 + xs.length) :: cycle :: segmentWords xs)

/-- The words of a CYCLIC frame with one COMMAND segment (12.1). -/
def ownFrame (address : BitVec 5) (cycle : Word) (body : List Word) : List Word :=
  State.withCheck ([0x1001, cycle, BitVec.ofNat 16 (address.toNat * 2 ^ 11 + body.length)] ++ body)

/-- The words of a CYCLIC frame with one COMMAND segment, which carries a request and no slot item (12.1). -/
def requestFrame (address : BitVec 5) (cycle : Word) (q : Request) : List Word :=
  ownFrame address cycle ([0x8000, BitVec.ofNat 16 (q.opcode.toNat * 2 ^ 8 + q.tag.toNat),
    BitVec.ofNat 16 q.payload.length] ++ q.payload)

/-- The words of a CYCLIC frame with one COMMAND segment, which carries one slot item and no request (12.1). -/
def itemFrame (address : BitVec 5) (cycle : Word) (slot : Nat) (v : Word) : List Word :=
  ownFrame address cycle [1, enc slot, v]

/-- The state in which the reply to an own segment is built: the frame has been heard, and last-segment-rejected tells whether
the segment is malformed (R6, R8, R11). -/
def State.atReply (s : State) (cycle : Word) (malformed : Bool) : State :=
  (State.heard (some cycle) s).modTrunk fun u => { u with rejected := malformed }

/-- The payload of a CALL_POST (12.2). -/
def postWords (tag : Byte) (cls : CallClass) (zones : Word) (clip : Option Byte) (block : Option BlockId)
    (pattern : Option ChimeId) (level : Option (Fin 16)) (repeats : Fin 16) (gap : Nat) : List Word :=
  [tag.setWidth 16, enc cls.ctorIdx, zones, encOpt (clip.map (·.toNat)), encOpt (block.map (·.val)),
    encOpt (pattern.map (·.val)), encOpt (level.map (·.val)), enc repeats.val, enc gap]

/-- A character of a BLOCK_WRITE (12.2). -/
def SignChar.payloadWord (c : SignChar) (raster : BitVec 3) : Word :=
  BitVec.ofNat 16 (c.code.toNat + c.colour.toNat * 2 ^ 7 + flagBit c.flash 10 + raster.toNat * 2 ^ 11)

/-- The entry in use for an action that no other entry in use guards (R173, R175). -/
def State.guards (s : State) (k : PermitId) (a : PermitAction) : Prop :=
  (s.permit k).used = true ∧ (s.permit k).action = a ∧ ∀ j, j ≠ k → (s.permit j).used = true → (s.permit j).action ≠ a

/-- The state and the reason a ramp is derived into (R157). -/
def State.derivedRamp (s : State) (r : RampId) : RampState × RampReason :=
  if s.stowLimit r then
    if s.landLimit r then (.fault, .limits) else if s.lockedLimit r then (.stowed, .none) else (.held, .none)
  else if s.landLimit r then (.landed, .none) else (.held, .none)

/-- A ramp has entered service in the state that its limits give, its beacon claimed out of the quiet states (R157, R170). -/
def State.rampDerived (s t : State) (r : RampId) : Prop :=
  t.ramp r = { s.ramp r with state := (s.derivedRamp r).1, reason := (s.derivedRamp r).2, grace := none, timer := none,
                             slowMark := false,
                             lockWanted := if (s.derivedRamp r).1 = .stowed then false else (s.ramp r).lockWanted }
    ∧ ((s.pinOf (.rampBeacon r)).isSome = true →
        (t.functionStanding (.rampBeacon r) = .none ↔ (s.derivedRamp r).1.quiet = true))

/-! ### The ranges of the records (the tables of chapters 2 to 10) -/

def within (lo n hi : Nat) : Bool := lo ≤ n && n ≤ hi

/-- R28. -/
def JunctionCfg.inRange (x : JunctionCfg) : Bool :=
  within 40 x.silenceTime 2000 && within 10 x.localCycle 200 && within 20 x.runGrace 500 && within 0 x.loadBudget 255

/-- R40. -/
def BranchCfg.inRange (x : BranchCfg) : Bool := within 0 x.lead 15 && within 0 x.gap 15

/-- R43. -/
def PositionCfg.inRange (x : PositionCfg) : Bool := x.zone.isSome || x.cls == .general

/-- Inputs whose filter and report fields may be set: every input but the encoder (R76). -/
def PinFunction.filtered (f : PinFunction) : Bool :=
  f.isInput && match f with
    | .rampEncoder _ => false
    | _ => true

/-- Outputs with a claim of their own: every output but a ramp's valves and lock (R76, R77). -/
def PinFunction.claims (f : PinFunction) : Bool :=
  f.isOutput && match f with
    | .rampLowerValve _ | .rampRaiseValve _ | .rampLock _ => false
    | _ => true

/-- R76. -/
def PinCfg.inRange (x : PinCfg) : Bool :=
  [0, 1, 4, 16, 64].contains x.filter && (x.filter == 0 || x.function.filtered) && within 0 x.units 63
    && (x.units == 0 || x.function.claims) && (!x.sheddable || x.function == .generalOut)
    && (!x.report || x.function.filtered)

/-- R95. -/
def ChannelCfg.inRange (x : ChannelCfg) : Bool :=
  within 0 x.period 65535 && within 0 x.duty 65535
    && (x.period != 0 || !(x.binding == .flash1 || x.binding == .flash2))

/-- R109. -/
def ChimeCfg.inRange (x : ChimeCfg) : Bool :=
  within 100 x.tone 5000 && within 1 x.duty 99 && within 10 x.onTime 2000 && within 10 x.offTime 2000
    && within 1 x.repetitions 15

/-- A clip, where there is one (R115). -/
def clipInRange (c : Option Nat) : Bool := match c with
  | some n => n ≤ 255
  | none => true

/-- R115. -/
def ZoneCfg.inRange (x : ZoneCfg) : Bool :=
  within 1 x.threshold 15 && within 1000 x.window 60000 && within 0 x.alarmRaster 7 && within 1 x.holdTime 60
    && clipInRange x.fireClip && clipInRange x.evacClip && clipInRange x.doorClip
    && within 0 x.callLevel 15 && within 0 x.alarmLevel 15
    && (!x.configured || (x.fireClip.isSome || x.fireBlock.isSome) && (x.evacClip.isSome || x.evacBlock.isSome)
      && (x.doorClip.isSome || x.doorBlock.isSome))

/-- R132. -/
def DoorCfg.inRange (x : DoorCfg) : Bool :=
  within 0 x.warning 30000 && within 50 x.pulse 2000 && within 1000 x.travel 30000 && within 0 x.retries 3
    && within 5 x.holdTime 120 && within 0 x.maxHolds 3

/-- R154. -/
def RampCfg.inRange (x : RampCfg) : Bool :=
  within 0 x.units 255 && within 1 x.travel 65535 && within 0 x.slowStow x.travel && within 0 x.slowLand x.travel
    && within 1 x.creepDuty 100 && within 1 x.runDuty 100 && within 1 x.slowDuty 100 && within 1 x.valvePeriod 65535
    && within 200 x.unlockTime 10000 && within 200 x.lockTime 10000 && within 1 x.minInterval 65535
    && within 100 x.stallTime 5000

/-- A condition in use (R174): a set of states is not empty. The set of the state coded 0 alone counts as a set (the model's
choice, log entry 45). -/
def Condition.inRange : Condition → Bool
  | .cleared => false
  | .door _ m => m != 0
  | .ramp _ m => m != 0
  | .zone _ m => m != 0
  | .pin _ _ | .node _ _ _ => true

/-- R173: an entry in use holds one to four conditions; one not in use holds its hard-reset values. -/
def PermitEntry.inRange (x : PermitEntry) : Bool :=
  if x.used then within 1 x.conditions.length 4 && x.conditions.all Condition.inRange else x == .reset

/-- R64: a valid entry holds a physical position and a void one none. -/
def RouteEntry.inRange (x : RouteEntry) : Bool := x.valid == x.place.isSome

/-- Every record of every table lies in its ranges. -/
def Tables.inRange (x : Tables) : Bool :=
  x.junction.inRange && x.branches.toList.all BranchCfg.inRange && x.positions.toList.all PositionCfg.inRange
    && x.routes.toList.all RouteEntry.inRange && x.pins.toList.all PinCfg.inRange
    && x.channels.toList.all ChannelCfg.inRange && x.chimes.toList.all ChimeCfg.inRange
    && x.zones.toList.all ZoneCfg.inRange && x.doors.toList.all DoorCfg.inRange && x.ramps.toList.all RampCfg.inRange
    && x.permits.toList.all PermitEntry.inRange

/-! ### The laws -/

/-- The states in which a door's timer runs, RELEASING left aside (the table of 8.4). -/
def DoorState.timed : DoorState → Bool
  | .warning | .closing | .crewHold | .reopening => true
  | _ => false

/-- The states in which a door can hold a claim (the table of 8.4). -/
def DoorState.mayClaim : DoorState → Bool
  | .opened | .warning | .releasing | .reopening => true
  | _ => false

namespace State

/-- The event queue holds at most 32 events, and the overflow flag is set only while an event is queued (R36, R37). -/
def eventLaw (s : State) : Prop := s.unit.events.length ≤ 32 ∧ (s.unit.overflow = true → s.unit.events ≠ [])

/-- The load units of all granted claims together never exceed the load budget (R87). -/
def loadLaw (s : State) : Prop := unitsOf s.account.granted ≤ s.unit.junction.loadBudget

/-- The claims of both lists. -/
def allClaims (s : State) : List Claim := s.account.granted ++ s.account.pending

/-- A claimant has at most one claim (R85), no two claims have one age, and the pending list is ordered by class and then by
age (R86). -/
def claimLaw (s : State) : Prop :=
  (s.allClaims.map Claim.claimant).Nodup ∧ (s.allClaims.map Claim.age).Nodup
    ∧ (∀ c ∈ s.allClaims, c.age < s.account.nextAge) ∧ s.account.pending.Pairwise fun a b => a.before b = true

/-- A function with an index is held by at most one pin (R77). -/
def pinLaw (s : State) : Prop :=
  ∀ p q, (s.pin p).cfg.function = (s.pin q).cfg.function → p ≠ q →
    (s.pin p).cfg.function = .unused ∨ (s.pin p).cfg.function = .generalIn ∨ (s.pin p).cfg.function = .generalOut

/-- Each binding is held once; a pair binding stands on an even channel, and its odd partner holds none of its own (R96). -/
def bindingLaw (s : State) : Prop :=
  (∀ c e, (s.channel c).cfg.binding = (s.channel e).cfg.binding → c ≠ e → (s.channel c).cfg.binding = .none)
    ∧ ∀ c, (s.channel c).cfg.binding.isPair = true → c.val % 2 = 0 ∧ (s.channel (partnerOf c)) = .reset

/-- Every valid route entry names an enabled GENERAL position, and no two valid entries name the same position (R64). -/
def routeLaw (s : State) : Prop :=
  (∀ i n, (s.slot i).entry.names = some n → (s.position n).cfg.enabled = true ∧ (s.position n).cfg.cls = .general)
    ∧ ∀ i j n, (s.slot i).entry.names = some n → (s.slot j).entry.names = some n → i = j

/-- The two timers follow the mode of an active part; a passive part stays in START with both stopped (R5, R15, R16). -/
def modeLaw (s : State) : Prop :=
  if s.active then
    (s.trunk.silence.isSome = true ↔ s.trunk.mode ≠ .localMode)
      ∧ (s.trunk.localCycle.isSome = true ↔ s.trunk.mode = .localMode)
  else s.trunk.mode = .start ∧ s.trunk.silence = none ∧ s.trunk.localCycle = none ∧ s.trunk.cycle = 0

/-- A branch has a burst in flight exactly in BURST; without the record's enable it is DISABLED; DISABLED and CONTENDED hold
no trigger and no previous record (R40 to R42, R59). -/
def branchLaw (s : State) : Prop :=
  ∀ b, ((s.branch b).burst.isSome = true ↔ (s.branch b).state = .burst)
    ∧ ((s.branch b).cfg.enable = false → (s.branch b).state = .disabled)
    ∧ ((s.branch b).state = .disabled ∨ (s.branch b).state = .contended →
        (s.branch b).held = false ∧ (s.branch b).previous = none)
    ∧ ((s.branch b).held = true → (s.branch b).state = .burst)

/-- The places of the burst in flight on a branch. -/
def burstPlaces (s : State) (b : BranchId) : List PlaceId :=
  match (s.branch b).burst with
  | some x => x.entries.map BurstEntry.place
  | none => []

/-- The miss runs lie in 0..3, and a position is ABSENT exactly while its run stands at 3 (R43, R55). A position not enabled is
UNKNOWN, and only the burst in flight when it was edited can have counted a miss of it (R54). -/
def presenceLaw (s : State) : Prop :=
  (∀ n, (s.position n).missRun ≤ 3 ∧ ((s.position n).presence = .absent ↔ (s.position n).missRun = 3)
    ∧ ((s.position n).cfg.enabled = false → (s.position n).presence = .unknown ∧ (s.position n).missRun ≤ 1
      ∧ ((s.position n).missRun = 1 → placeOf n ∉ s.burstPlaces (branchOf n))))
    ∧ ∀ b, (s.burstPlaces b).Nodup

/-- A ramp out of DISABLED is enabled, and no ramp is driven while its zone is in ALARM or EVACUATE (R156, R161). -/
def rampLaw (s : State) : Prop :=
  ∀ r, ((s.ramp r).state ≠ .disabled → (s.ramp r).cfg.enabled = true)
    ∧ ((s.ramp r).state.driven = true → s.alarmed (s.ramp r).cfg.zone = false)

/-- A door out of DISABLED is enabled, and while a zone is in ALARM or EVACUATE none of its auto-close doors is OPEN or
REOPENING (R134, R138). -/
def doorLaw (s : State) : Prop :=
  ∀ d, ((s.door d).state ≠ .disabled → (s.door d).cfg.enabled = true)
    ∧ (s.mustClose d = true → (s.door d).state ≠ .opened ∧ (s.door d).state ≠ .reopening)

/-- The call queue holds at most 16 calls and no two with the same tag (R181). -/
def queueLaw (s : State) : Prop := s.calls.queue.length ≤ 16 ∧ (s.calls.queue.map Call.tag).Nodup

/-- A call of the queue names a zone with an item in the given status. -/
def itemStands (s : State) (tag : Byte) (z : ZoneId) (x : ItemStatus) : Prop :=
  ∃ c ∈ s.calls.queue, c.tag = tag ∧ ∃ i ∈ c.items, i.zone = z ∧ i.status = x

/-- A zone presents a queued call whose zone set contains the zone (R185). -/
def presentingLaw (s : State) : Prop := ∀ z p, s.presenting z = some p → s.itemStands p.tag z .presenting

/-- The class of a zone's internal alarm call (R128). -/
def alarmClass (s : State) (z : ZoneId) : CallClass := if (s.zone z).state = .evacuate then .evacuate else .fire

/-- For every zone in ALARM or EVACUATE the call queue holds the zone's internal alarm call, and for no other zone; it has
the class of that state (R128, R130). -/
def alarmCallLaw (s : State) : Prop :=
  ∀ z, (s.alarmed z = true → ∃ c ∈ s.calls.queue, c.tag = alarmTag z)
    ∧ ∀ c ∈ s.calls.queue, c.tag = alarmTag z → s.alarmed z = true ∧ c.cls = s.alarmClass z

/-- The calls that can stand in the queue: bridge calls up to SAFETY with tags below 240 and one item for a zone, alarm
calls and door-warning calls of one zone with their own tags (R181, R182, R184). -/
def callForm (c : Call) : Prop :=
  (c.tag.toNat < 240 ∧ c.cls.isAlarm = false ∧ (c.items.map ProgressItem.zone).Nodup)
    ∨ (∃ z, c.tag = alarmTag z ∧ c.cls.isAlarm = true ∧ c.repeats = 0 ∧ c.items.map ProgressItem.zone = [z])
    ∨ ∃ z, c.tag = doorTag z ∧ c.cls = .safety ∧ c.repeats = 0 ∧ c.items.map ProgressItem.zone = [z]

/-- The laws of the call queue together, which keep one another (R128, R181 to R185). -/
def callLaw (s : State) : Prop :=
  s.queueLaw ∧ s.presentingLaw ∧ s.alarmCallLaw ∧ ∀ c ∈ s.calls.queue, callForm c

/-- A pending reply holds at most 32 payload words (12.2). -/
def replyFits (s : State) : Prop := ∀ r, s.unit.reply = some r → r.payload.length ≤ 32

/-- The warning count of a zone is the number of its enabled doors in the warning set (R149). -/
def warningLaw (s : State) : Prop := ∀ z, s.warning z = s.warningCount z

/-- A zone is UNUSED exactly while its record is not configured, its window runs exactly in PRE_ALARM, and an UNUSED zone has
its fault flag clear (R116, R118 to R120, R124). -/
def zoneLaw (s : State) : Prop :=
  ∀ z, ((s.zone z).state = .unused ↔ (s.zone z).cfg.configured = false)
    ∧ ((s.zone z).window.isSome = true ↔ (s.zone z).state = .preAlarm)
    ∧ ((s.zone z).state = .unused → (s.zone z).fault = false)

/-- The run-grace timer runs exactly in the active states, the ramp timer exactly in UNLOCKING and LOCKING, and the drive
claim stands exactly in the active states (R157, R160 to R163, R166, R168). -/
def rampTimerLaw (s : State) : Prop :=
  ∀ r, ((s.ramp r).grace.isSome = (s.ramp r).state.isActive)
    ∧ ((s.ramp r).timer.isSome = true ↔ (s.ramp r).state = .unlocking ∨ (s.ramp r).state = .locking)
    ∧ ((s.account.find (driveClaimant r)).isSome = (s.ramp r).state.isActive)

/-- A door's timer runs as its state says, holds and retries used lie in 0..3, and only OPEN, WARNING, RELEASING and REOPENING
hold a claim (the tables of 8.0 and 8.4). -/
def doorTimerLaw (s : State) : Prop :=
  ∀ d, ((s.door d).state ≠ .releasing → (s.door d).timer.isSome = (s.door d).state.timed)
    ∧ (s.door d).holdsUsed ≤ 3 ∧ (s.door d).retriesUsed ≤ 3
    ∧ ((s.door d).state.mayClaim = false →
        s.functionStanding (.doorHoldback d) = .none ∧ s.functionStanding (.doorRelease d) = .none)

/-- A hold request stands only in RELEASING, with at most two holds used (R141, R144). -/
def holdLaw (s : State) : Prop :=
  ∀ d, (s.door d).holdRequest = true → (s.door d).state = .releasing ∧ (s.door d).holdsUsed ≤ 2

/-- What the configuration lock freezes: the PIN, CHANNEL, BRANCH and POSITION tables and the load budget, and the lock
itself (R30). -/
def frozen (s t : State) : Prop :=
  t.unit.lock = true ∧ t.tables.pins = s.tables.pins ∧ t.tables.channels = s.tables.channels
    ∧ t.tables.branches = s.tables.branches ∧ t.tables.positions = s.tables.positions
    ∧ t.unit.junction.loadBudget = s.unit.junction.loadBudget

end State

end Sys2Proof.Machine
end

