-- ==== Sys2Proof/WellFormed.lean ====
section
/-! DEFINITION. Which commands the outside can bring: a request carries at most 32 payload words (R8, R20), and the
row UNKNOWN_REQUEST stands for opcodes outside the catalogue only (R21, R197). Whether a request's fields are in range
is not a matter of form: such a request is answered REFUSED_RANGE (R21). -/

namespace Sys2Proof

/-- A request's payload length lies in 0..32 (2.1). -/
def payloadFits (payload : List Word) : Bool := payload.length ≤ 32

/-- A table write's payload is the table code, the index and the fields (12.2). -/
def fieldsFit (fields : List Word) : Bool := fields.length ≤ 30

/-- The check of a command's form. -/
def Instr.wellFormed : Instr → Bool
  | .hardReset _ | .frameArrival _ | .tableRead _ _ _ | .stateRead _ _ _ => true
  | .unknownRequest opcode _ payload => 13 ≤ opcode.toNat && payloadFits payload
  | .junctionWrite _ _ fs | .branchWrite _ _ fs | .positionWrite _ _ fs | .routeWrite _ _ fs | .pinWrite _ _ fs
  | .channelWrite _ _ fs | .chimeWrite _ _ fs | .zoneWrite _ _ fs | .doorWrite _ _ fs | .rampWrite _ _ fs
  | .permitWrite _ _ fs => fieldsFit fs
  | .blockWrite _ p | .configLock _ p | .restart _ _ p | .callPost _ p => payloadFits p
  | .setAlarm _ _ _ | .evacuate _ _ _ | .clear _ _ _ | .isolate _ _ _ | .restore _ _ _ => true
  | .doorClose _ _ | .doorReopen _ _ | .doorDisable _ _ | .doorEnable _ _ | .doorAckFault _ _ => true
  | .rampStop _ _ | .rampAckFault _ _ | .rampDisable _ _ | .rampEnable _ _ => true
  | .branchEnable _ _ | .branchDisable _ _ => true
  | .callCancel _ _ _ | .outputSetOn _ _ | .outputSetFlash _ _ _ | .outputSetOff _ _ => true
  | .silenceTimerExpiry | .localCycleTimerExpiry | .burstEnd _ _ | .returnLineContention _ => true
  | .rawInputChange _ _ | .inputFilterExpiry _ | .stallCountReached _ | .pwmPeriodStart _ | .pwmDutyEnd _ => true
  | .chimeOnExpiry | .chimeOffExpiry | .loadGrant | .windowTimerExpiry _ => true
  | .magnetWarningExpiry _ | .latchWarningExpiry _ | .releasePulseExpiry _ | .travelTimerExpiry _ => true
  | .crewHoldExpiry _ | .reopenTimerExpiry _ | .runGraceExpiry _ | .unlockTimerExpiry _ | .lockTimerExpiry _ => true
  | .holdTimerExpiry _ | .clipTimerExpiry _ | .gapTimerExpiry _ _ => true

end Sys2Proof
end

