-- ==== Sys2Proof/Certificates/Slice0/Obligations.lean ====
section
/-! DEFINITION. The statements. Each says what its entry of OBLIGATIONS.json says, over the words of Safety.lean. -/

open Sys2Proof Sys2Proof.Machine Sys2Proof.Machine.State

/-- A step takes the front command; on an empty queue time passes and counts advance (the model's choice, log entries 5, 27 and 28). -/
def Obligations.StepTakesTheQueue : Prop :=
  (∀ (c : Instr) (cs : List Instr) (s : State),
      step (s.withPending (c :: cs)) = exec c (s.withPending cs))
  ∧ (∀ (s : State),
      s.pending = [] →
      ∃ t, step s = .next t ∧ t.pending = [] ∧ t.tables = s.tables ∧ t.unit = s.unit ∧ t.account = s.account
          ∧ t.positions = s.positions
      ∧ t.slots = s.slots ∧ t.warnings = s.warnings ∧ t.chimes = s.chimes ∧ t.permits = s.permits
      ∧ t.freeSeq = s.freeSeq
      ∧ t.trunk = { s.trunk with silence := s.trunk.silence.map (· - 1), localCycle := s.trunk.localCycle.map (· - 1) }
      ∧ (∀ d, t.door d = { s.door d with timer := (s.door d).timer.map (· - 1) })
      ∧ (∀ r, t.ramp r = { s.ramp r with grace := (s.ramp r).grace.map (· - 1), timer := (s.ramp r).timer.map (· - 1) })
      ∧ (∀ z, t.zone z = { s.zone z with window := (s.zone z).window.map (· - 1) })
      ∧ (∀ p, t.pin p = { s.pin p with filterTimer := (s.pin p).filterTimer.map (· - 1) })
      ∧ (∀ b, t.branch b = { s.branch b with left := (s.branch b).left.map (· - 1) })
      ∧ t.player = { s.player with timer := s.player.timer.map (· - 1) }
      ∧ t.calls = { s.calls with
          queue := s.calls.queue.map fun c =>
            { c with items := c.items.map fun i => { i with gap := i.gap.map (· - 1) } },
          presenting := Vector.ofFn fun z : ZoneId => (s.presenting z).map fun p =>
            { p with holdTimer := p.holdTimer.map (· - 1), clipTimer := p.clipTimer.map (· - 1) } }
      ∧ ∀ c, (t.channel c).cfg = (s.channel c).cfg ∧ (t.channel c).run = match (s.channel c).run with
          | .pwm p => if (s.channel c).cfg.clock = .milli ∧ p.sub + 1 < 1000 then .pwm { p with sub := p.sub + 1 }
              else .pwm { p with sub := 0, count := min (p.count + 1) (p.period - 1) }
          | .capturing w => .capturing { w with count := min (w.count + 1) w.stallCount }
          | x => x)

/-- Every command answers a next state, with the queue as it was. The queue and the counter of free values are the model's own, and that a HARD_RESET keeps them is its choice (log entries 26, 34 and 1). -/
def Obligations.CommandsRunAndKeepTheQueue : Prop :=
  ∀ (c : Instr) (s : State),
      ∃ t, exec (c) s = .next t
      ∧ t.pending = s.pending ∧ s.freeSeq ≤ t.freeSeq

/-- HARD_RESET (R19, R39, R62, R75, R93, R113, R131, R151, R172, R180, R195). That a transfer is not marked away is the model's choice (log entry 4). -/
def Obligations.HardResetState : Prop :=
  ∀ (straps : BitVec 5) (s : State),
      ∃ t, exec (.hardReset straps) s = .next t
      ∧ t.trunk.address = straps ∧ t.trunk.mode = .start
      ∧ t.trunk.silence = (if 1 ≤ straps.toNat ∧ straps.toNat ≤ 30 then some 200000 else none)
      ∧ t.trunk.localCycle = none ∧ t.trunk.cycle = 0 ∧ t.trunk.localCycles = 0 ∧ t.trunk.rejected = false
      ∧ t.unit = ⟨none, false, ⟨200, 20, 60, 40⟩, [], false⟩
      ∧ (∀ b, t.branch b = .reset) ∧ (∀ n, t.position n = .reset) ∧ (∀ i, t.slot i = .reset)
      ∧ (∀ p, (t.pin p).cfg = .reset ∧ (t.pin p).filterTimer = none ∧ (t.pin p).setting = .off)
      ∧ t.account.granted = [] ∧ t.account.pending = []
      ∧ (∀ c, t.channel c = .reset) ∧ (∀ k, t.chime k = .reset) ∧ t.player.state = .idle ∧ t.player.played = 0
      ∧ (∀ z, t.zone z = .reset ∧ t.warning z = 0) ∧ (∀ d, t.door d = .reset)
      ∧ (∀ r, (t.ramp r).cfg = .reset ∧ (t.ramp r).state = .disabled ∧ (t.ramp r).reason = .disabled
          ∧ (t.ramp r).cmdDisabled = false ∧ (t.ramp r).lastToggle = false ∧ (t.ramp r).speed = .creep
          ∧ (t.ramp r).lockWanted = false ∧ (t.ramp r).grace = none ∧ (t.ramp r).timer = none)
      ∧ (∀ k, t.permit k = .reset) ∧ t.calls.queue = [] ∧ t.calls.arrival = 0 ∧ t.calls.chime = none
      ∧ (∀ z, t.presenting z = none ∧ t.target z = none)
      ∧ (∀ k, t.signBlock k = ⟨0, Vector.replicate 48 ⟨0, 0, false⟩⟩)
      ∧ ∀ n, t.paNode n = ⟨none, none⟩ ∧ t.transfer n = ⟨.stopped, none, none, false, 0, none, none, false⟩

/-- The laws hold right after reset. -/
def Obligations.ResetHoldsTheLaws : Prop :=
  State.reset.eventLaw ∧ State.reset.loadLaw ∧ State.reset.claimLaw ∧ State.reset.pinLaw ∧ State.reset.bindingLaw
    ∧ State.reset.routeLaw ∧ State.reset.modeLaw ∧ State.reset.zoneLaw ∧ State.reset.branchLaw
    ∧ State.reset.presenceLaw
    ∧ State.reset.rampLaw ∧ State.reset.doorLaw ∧ State.reset.warningLaw ∧ State.reset.callLaw ∧ State.reset.replyFits
    ∧ State.reset.rampTimerLaw
    ∧ State.reset.doorTimerLaw ∧ State.reset.holdLaw ∧ State.reset.tables.inRange = true

/-- Frames that are not taken (R2, R3, R5). -/
def Obligations.FramesPassedOn : Prop :=
  (∀ (ws : List Word) (s : State),
      s.active = false ∨ goodFrame ws = false →
      exec (.frameArrival ws) s =
        .next (s.modTrunk fun u => { u with downstream := u.downstream ++ [ws] }))
  ∧ (∀ (ws : List Word) (s : State),
      s.active = true →
      goodFrame ws = true →
      (ws.headD 0).extractLsb' 12 4 ≠ 1 →
      ∃ t, exec (.frameArrival ws) s = .next t
      ∧ t.trunk = { s.trunk with silence := some (s.unit.junction.silenceTime * 1000), mode := .run, localCycle := none,
                                 downstream := s.trunk.downstream ++ [ws] }
      ∧ { t with trunk := s.trunk, unit := s.unit } = s
      ∧ t.unit = if s.trunk.mode = .localMode then
          (s.post .trunkRestored 0 (BitVec.ofNat 16 s.trunk.localCycles)).unit else s.unit)

/-- CYCLIC frames (R4, R6 to R8, R11), shortened replies (R14), the status record (R12) and the reply items (R71 to R73). -/
def Obligations.CyclicFrames : Prop :=
  (∀ (ws : List Word) (s : State),
      s.active = true →
      goodFrame ws = true →
      (ws.headD 0).extractLsb' 12 4 = 1 →
      ∃ t, exec (.frameArrival ws) s = .next t
      ∧ t.trunk.address = s.trunk.address ∧ t.trunk.mode = .run ∧ t.trunk.arrivalMode = s.trunk.mode
      ∧ t.trunk.silence = some (s.unit.junction.silenceTime * 1000) ∧ t.trunk.localCycle = none
      ∧ t.trunk.cycle = ws.getD 1 0 ∧ t.trunk.localCycles = s.trunk.localCycles
      ∧ t.trunk.downstream.dropLast = s.trunk.downstream
      ∧ (t.trunk.downstream.getLast?.map fun w => (goodFrame w, w.take 2)) = some (true, ws.take 2))
  ∧ (∀ (ws : List Word) (s : State),
      s.active = true →
      goodFrame ws = true →
      (ws.headD 0).extractLsb' 12 4 = 1 →
      (∀ xs, walk ((ws.headD 0).extractLsb' 0 5).toNat (ws.drop 2).dropLast = some xs →
        ∀ x ∈ xs, x.isReply = true ∨ (x.address ≠ s.trunk.address ∧ x.address ≠ 31)) →
      ∃ t, exec (.frameArrival ws) s = .next t
      ∧ t.trunk.downstream = s.trunk.downstream ++ [ws] ∧ t.unit.reply = s.unit.reply
      ∧ t.trunk.rejected = s.trunk.rejected)
  ∧ (∀ (cycle : Word) (q : Request) (s : State),
      s.active = true →
      q.payload.length ≤ 32 →
      s.replyFits →
      ∃ t, exec (.frameArrival (requestFrame s.trunk.address cycle q)) s = .next t
      ∧ t.trunk.rejected = false ∧ t.trunk.cycle = cycle
      ∧ (t.unit.reply.map fun r => (r.opcode, r.tag)) = some (q.opcode, q.tag))
  ∧ (∀ (s : State),
      s.eventLaw →
      (s.statusRecord.extractLsb' 14 2).toNat = s.trunk.arrivalMode.ctorIdx ∧ s.statusRecord.getLsbD 13 = s.unit.lock
      ∧ s.statusRecord.getLsbD 12 = s.trunk.rejected ∧ s.statusRecord.getLsbD 11 = s.unit.overflow
      ∧ s.statusRecord.getLsbD 10 = !s.account.pending.isEmpty
      ∧ (s.statusRecord.extractLsb' 4 6).toNat = s.unit.events.length
      ∧ (s.statusRecord.extractLsb' 0 4).toNat = ((each 8).filter fun z => s.alarmed z).length)
  ∧ (∀ (i : SlotId) (v : Word) (s : State),
      (s.slot i).void = some v →
      s.replyItem i = some ⟨.void, i, v⟩)
  ∧ (∀ (i : SlotId) (n : PosId) (s : State),
      (s.slot i).void = none →
      (s.slot i).entry.names = some n →
      (s.slot i).entry.replyWanted = true →
      s.replyItem i = some ⟨if (s.position n).presence = .absent ∨ (s.branch (branchOf n)).state = .contended
            ∨ (s.branch (branchOf n)).state = .disabled then .absent
          else if (s.slot i).fresh then .fresh else .stale, i, (s.slot i).holding.getD 0⟩)
  ∧ (∀ (i : SlotId) (s : State),
      (s.slot i).void = none →
      (s.slot i).entry.names = none ∨ (s.slot i).entry.replyWanted = false →
      s.replyItem i = none)
  ∧ (∀ (k : Parts) (i : SlotId) (s : State),
      k.items = true →
      (s.afterBuild k).slot i = match s.replyItem i with
        | some ⟨.void, _, _⟩ => { s.slot i with void := none }
        | some ⟨.stale, _, _⟩ | none => s.slot i
        | some _ => { s.slot i with fresh := false })
  ∧ (∀ (k : Parts) (i : SlotId) (s : State),
      k.items = false →
      (s.afterBuild k).slot i = s.slot i)
  ∧ (∀ (k : Parts) (s : State),
      s.replyBody k = (s.afterBuild k).statusRecord :: s.rampStatus 0 ++ s.rampStatus 1
        ++ BitVec.ofNat 16 (flagBit (s.replyTaken k).isSome 15 + (s.replyEvents k).length * 2 ^ 7 + (s.replyList k).length)
        :: (s.replyList k).flatMap ReplyItem.words ++ (s.replyEvents k).flatMap Event.words
        ++ (match s.replyTaken k with
          | some r => r.words
          | none => []))
  ∧ (∀ (cycle : Word) (body : List Word) (s : State),
      s.active = true →
      body.length ≤ 1019 →
      s.replyFits →
      ∃ t, exec (.frameArrival (ownFrame s.trunk.address cycle body)) s = .next t
      ∧ t.trunk.rejected = (readCommand body).isNone
      ∧ t.trunk.downstream = s.trunk.downstream ++ [withCheck (0x1001 :: cycle ::
          ((s.atReply cycle (readCommand body).isNone).replySegment ⟨true, true, true⟩).words)])
  ∧ (∀ (cycle : Word) (pre post : List Segment) (x : Segment) (k : Parts) (s : State),
      s.active = true →
      (∀ y ∈ pre ++ x :: post, y.sound = true) →
      (pre ++ x :: post).length ≤ 31 →
      (segmentFrame cycle (pre ++ x :: post)).length ≤ 1023 →
      (∀ y ∈ pre, y.isReply = true ∨ (y.address ≠ s.trunk.address ∧ y.address ≠ 31)) →
      x.isReply = false →
      x.address = s.trunk.address →
      (s.atReply cycle (readCommand x.body).isNone).fittingParts
        ((segmentFrame cycle (pre ++ x :: post)).length + 1 - x.words.length) = some k →
      ∃ t, exec (.frameArrival (segmentFrame cycle (pre ++ x :: post))) s = .next t
      ∧ t.trunk.rejected = (readCommand x.body).isNone
      ∧ t.trunk.downstream = s.trunk.downstream ++ [withCheck (BitVec.ofNat 16 (0x1000 + (pre ++ x :: post).length) :: cycle ::
          (segmentWords pre ++ ((s.atReply cycle (readCommand x.body).isNone).replySegment k).words ++ segmentWords post))])
  ∧ (∀ (cycle : Word) (pre post : List Segment) (x : Segment) (s : State),
      s.active = true →
      (∀ y ∈ pre ++ x :: post, y.sound = true) →
      (pre ++ x :: post).length ≤ 31 →
      (segmentFrame cycle (pre ++ x :: post)).length ≤ 1023 →
      (∀ y ∈ pre, y.isReply = true ∨ (y.address ≠ s.trunk.address ∧ y.address ≠ 31)) →
      x.isReply = false →
      x.address = s.trunk.address →
      (∀ y ∈ post, y.isReply = true ∨ y.address ≠ 31) →
      (s.atReply cycle (readCommand x.body).isNone).fittingParts
        ((segmentFrame cycle (pre ++ x :: post)).length + 1 - x.words.length) = none →
      ∃ t, exec (.frameArrival (segmentFrame cycle (pre ++ x :: post))) s = .next t
      ∧ t.trunk.rejected = s.trunk.rejected ∧ t.unit.reply = s.unit.reply
      ∧ t.trunk.downstream = s.trunk.downstream ++ [segmentFrame cycle (pre ++ x :: post)])
  ∧ (∀ (cycle : Word) (pre post : List Segment) (x : Segment) (k : Parts) (s : State),
      s.active = true →
      (∀ y ∈ pre ++ x :: post, y.sound = true) →
      (pre ++ x :: post).length ≤ 31 →
      (segmentFrame cycle (pre ++ x :: post)).length ≤ 1023 →
      (∀ y ∈ pre, y.isReply = true ∨ (y.address ≠ s.trunk.address ∧ y.address ≠ 31)) →
      x.isReply = false →
      x.address = s.trunk.address →
      (∀ y ∈ post, y.isReply = true ∨ y.address ≠ 31) →
      (s.atReply cycle (readCommand x.body).isNone).fittingParts
        ((segmentFrame cycle (pre ++ x :: post)).length + 1 - x.words.length) = some k →
      k.reply = false →
      ∃ t, exec (.frameArrival (segmentFrame cycle (pre ++ x :: post))) s = .next t
      ∧ t.unit.reply = s.unit.reply ∧ t.tables = s.tables)
  ∧ (∀ (n : Nat) (s : State),
      s.fittingParts n =
        if n + (s.replySegment ⟨true, true, true⟩).words.length ≤ 1024 then some ⟨true, true, true⟩
        else if n + (s.replySegment ⟨false, true, true⟩).words.length ≤ 1024 then some ⟨false, true, true⟩
        else if n + (s.replySegment ⟨false, false, true⟩).words.length ≤ 1024 then some ⟨false, false, true⟩
        else if n + (s.replySegment ⟨false, false, false⟩).words.length ≤ 1024 then some ⟨false, false, false⟩
        else none)

/-- The rows are the requests of the catalogue by their codes (R196). -/
def Obligations.RequestsAreTheirRows : Prop :=
  (∀ (tag : Byte) (i : Word) (fs : List Word) (s : State),
      exec (.junctionWrite tag i fs) s = .next (s.takeRequest .own ⟨0, tag, 0 :: i :: fs⟩))
  ∧ (∀ (tag : Byte) (i : Word) (fs : List Word) (s : State),
      exec (.branchWrite tag i fs) s = .next (s.takeRequest .own ⟨0, tag, 1 :: i :: fs⟩))
  ∧ (∀ (tag : Byte) (i : Word) (fs : List Word) (s : State),
      exec (.positionWrite tag i fs) s = .next (s.takeRequest .own ⟨0, tag, 2 :: i :: fs⟩))
  ∧ (∀ (tag : Byte) (i : Word) (fs : List Word) (s : State),
      exec (.routeWrite tag i fs) s = .next (s.takeRequest .own ⟨0, tag, 3 :: i :: fs⟩))
  ∧ (∀ (tag : Byte) (i : Word) (fs : List Word) (s : State),
      exec (.pinWrite tag i fs) s = .next (s.takeRequest .own ⟨0, tag, 4 :: i :: fs⟩))
  ∧ (∀ (tag : Byte) (i : Word) (fs : List Word) (s : State),
      exec (.channelWrite tag i fs) s = .next (s.takeRequest .own ⟨0, tag, 5 :: i :: fs⟩))
  ∧ (∀ (tag : Byte) (i : Word) (fs : List Word) (s : State),
      exec (.chimeWrite tag i fs) s = .next (s.takeRequest .own ⟨0, tag, 6 :: i :: fs⟩))
  ∧ (∀ (tag : Byte) (i : Word) (fs : List Word) (s : State),
      exec (.zoneWrite tag i fs) s = .next (s.takeRequest .own ⟨0, tag, 7 :: i :: fs⟩))
  ∧ (∀ (tag : Byte) (i : Word) (fs : List Word) (s : State),
      exec (.doorWrite tag i fs) s = .next (s.takeRequest .own ⟨0, tag, 8 :: i :: fs⟩))
  ∧ (∀ (tag : Byte) (i : Word) (fs : List Word) (s : State),
      exec (.rampWrite tag i fs) s = .next (s.takeRequest .own ⟨0, tag, 9 :: i :: fs⟩))
  ∧ (∀ (tag : Byte) (i : Word) (fs : List Word) (s : State),
      exec (.permitWrite tag i fs) s = .next (s.takeRequest .own ⟨0, tag, 10 :: i :: fs⟩))
  ∧ (∀ (tag : Byte) (x i : Word) (s : State),
      exec (.tableRead tag x i) s = .next (s.takeRequest .own ⟨1, tag, [x, i]⟩))
  ∧ (∀ (tag : Byte) (p : List Word) (s : State),
      exec (.blockWrite tag p) s = .next (s.takeRequest .own ⟨2, tag, p⟩))
  ∧ (∀ (tag : Byte) (x i : Word) (s : State),
      exec (.stateRead tag x i) s = .next (s.takeRequest .own ⟨3, tag, [x, i]⟩))
  ∧ (∀ (tag : Byte) (p : List Word) (s : State),
      exec (.configLock tag p) s = .next (s.takeRequest .own ⟨4, tag, p⟩))
  ∧ (∀ (src : Source) (tag : Byte) (p : List Word) (s : State),
      exec (.restart src tag p) s = .next (s.takeRequest src ⟨5, tag, p⟩))
  ∧ (∀ (src : Source) (tag : Byte) (z : Word) (s : State),
      exec (.setAlarm src tag z) s = .next (s.takeRequest src ⟨6, tag, [z, 0]⟩))
  ∧ (∀ (src : Source) (tag : Byte) (z : Word) (s : State),
      exec (.evacuate src tag z) s = .next (s.takeRequest src ⟨6, tag, [z, 1]⟩))
  ∧ (∀ (src : Source) (tag : Byte) (z : Word) (s : State),
      exec (.clear src tag z) s = .next (s.takeRequest src ⟨6, tag, [z, 2]⟩))
  ∧ (∀ (src : Source) (tag : Byte) (z : Word) (s : State),
      exec (.isolate src tag z) s = .next (s.takeRequest src ⟨6, tag, [z, 3]⟩))
  ∧ (∀ (src : Source) (tag : Byte) (z : Word) (s : State),
      exec (.restore src tag z) s = .next (s.takeRequest src ⟨6, tag, [z, 4]⟩))
  ∧ (∀ (tag : Byte) (d : Word) (s : State),
      exec (.doorClose tag d) s = .next (s.takeRequest .own ⟨7, tag, [d, 0]⟩))
  ∧ (∀ (tag : Byte) (d : Word) (s : State),
      exec (.doorReopen tag d) s = .next (s.takeRequest .own ⟨7, tag, [d, 1]⟩))
  ∧ (∀ (tag : Byte) (d : Word) (s : State),
      exec (.doorDisable tag d) s = .next (s.takeRequest .own ⟨7, tag, [d, 2]⟩))
  ∧ (∀ (tag : Byte) (d : Word) (s : State),
      exec (.doorEnable tag d) s = .next (s.takeRequest .own ⟨7, tag, [d, 3]⟩))
  ∧ (∀ (tag : Byte) (d : Word) (s : State),
      exec (.doorAckFault tag d) s = .next (s.takeRequest .own ⟨7, tag, [d, 4]⟩))
  ∧ (∀ (tag : Byte) (r : Word) (s : State),
      exec (.rampStop tag r) s = .next (s.takeRequest .own ⟨8, tag, [r, 0]⟩))
  ∧ (∀ (tag : Byte) (r : Word) (s : State),
      exec (.rampAckFault tag r) s = .next (s.takeRequest .own ⟨8, tag, [r, 1]⟩))
  ∧ (∀ (tag : Byte) (r : Word) (s : State),
      exec (.rampDisable tag r) s = .next (s.takeRequest .own ⟨8, tag, [r, 2]⟩))
  ∧ (∀ (tag : Byte) (r : Word) (s : State),
      exec (.rampEnable tag r) s = .next (s.takeRequest .own ⟨8, tag, [r, 3]⟩))
  ∧ (∀ (tag : Byte) (b : Word) (s : State),
      exec (.branchEnable tag b) s = .next (s.takeRequest .own ⟨9, tag, [b, 0]⟩))
  ∧ (∀ (tag : Byte) (b : Word) (s : State),
      exec (.branchDisable tag b) s = .next (s.takeRequest .own ⟨9, tag, [b, 1]⟩))
  ∧ (∀ (tag : Byte) (p : List Word) (s : State),
      exec (.callPost tag p) s = .next (s.takeRequest .own ⟨10, tag, p⟩))
  ∧ (∀ (src : Source) (tag : Byte) (c : Word) (s : State),
      exec (.callCancel src tag c) s = .next (s.takeRequest src ⟨11, tag, [c]⟩))
  ∧ (∀ (tag : Byte) (p : Word) (s : State),
      exec (.outputSetOff tag p) s = .next (s.takeRequest .own ⟨12, tag, [p, 0]⟩))
  ∧ (∀ (tag : Byte) (p : Word) (s : State),
      exec (.outputSetOn tag p) s = .next (s.takeRequest .own ⟨12, tag, [p, 1]⟩))
  ∧ (∀ (tag : Byte) (p : Word) (s : State),
      exec (.outputSetFlash tag p .flash1) s = .next (s.takeRequest .own ⟨12, tag, [p, 2]⟩))
  ∧ (∀ (tag : Byte) (p : Word) (s : State),
      exec (.outputSetFlash tag p .flash2) s = .next (s.takeRequest .own ⟨12, tag, [p, 3]⟩))
  ∧ (∀ (op tag : Byte) (p : List Word) (s : State), 13 ≤ op.toNat →
      exec (.unknownRequest op tag p) s = .next (s.takeRequest .own ⟨op, tag, p⟩))

/-- Replies to requests (R20, R21, R22), malformed own segments (R8) and broadcast segments (R10). -/
def Obligations.OwnRequestsAreAnswered : Prop :=
  (∀ (c : Instr) (op tag : Byte) (s : State),
      c.ownRequest = some (op, tag) →
      s.active = true →
      ∃ t, exec (c) s = .next t
      ∧ (t.unit.reply.map fun r => (r.opcode, r.tag)) = some (op, tag))
  ∧ (∀ (c : Instr) (s : State),
      c.broadcasts = true →
      s.active = true →
      ∃ t, exec (c) s = .next t
      ∧ t.unit.reply = match c with
        | .restart _ _ [] => none
        | _ => s.unit.reply)
  ∧ (∀ (c : Instr) (s : State),
      c.ownRequest.isSome = true ∨ c.broadcasts = true →
      s.active = false →
      exec c s = .next s)
  ∧ (∀ (op tag : Byte) (p : List Word) (s : State),
      s.active = true →
      exec (.unknownRequest op tag p) s = .next (s.withReply op tag .unknownRequest []))
  ∧ (∀ (cycle : Word) (body : List Word) (s : State),
      s.active = true →
      body.length ≤ 1019 →
      s.replyFits →
      readCommand body = none →
      ∃ t, exec (.frameArrival (ownFrame s.trunk.address cycle body)) s = .next t
      ∧ t.trunk.rejected = true ∧ t.unit.reply = none ∧ t.tables = s.tables ∧ t.zones = s.zones ∧ t.doors = s.doors
      ∧ t.ramps = s.ramps ∧ t.pins = s.pins ∧ t.account = s.account
      ∧ t.slots = ((s.atReply cycle true).afterBuild ⟨true, true, true⟩).slots)
  ∧ (∀ (cycle : Word) (x : Segment) (s : State),
      s.active = true →
      x.sound = true →
      x.isReply = false →
      x.address = 31 →
      x.body.length ≤ 1019 →
      ∃ t, exec (.frameArrival (segmentFrame cycle [x])) s = .next t
      ∧ t.trunk.rejected = s.trunk.rejected ∧ t.trunk.downstream = s.trunk.downstream ++ [segmentFrame cycle [x]]
      ∧ t = emit (segmentFrame cycle [x]) (triggerAll (match readCommand x.body with
          | some ⟨_, some q⟩ =>
            if q.opcode = 5 ∨ q.opcode = 6 ∨ q.opcode = 11 then takeRequest .broadcast q (heard (some cycle) s)
            else heard (some cycle) s
          | _ => heard (some cycle) s)))

/-- Refusals (R21, R22). -/
def Obligations.RefusedRequestsChangeNothing : Prop :=
  ∀ (c : Instr) (op tag : Byte) (s : State),
      c.ownRequest = some (op, tag) →
      s.active = true →
      ∃ t, exec (c) s = .next t
      ∧ (match t.unit.reply with
        | none => False
        | some r => r.result ≠ .done →
            t = { s.withReply op tag r.result r.payload with freeSeq := t.freeSeq })
      ∧ match t.unit.reply with
        | none => False
        | some r => match r.result with
          | .refusedRange | .refusedConflict => r.payload.length = 1
          | .refusedPermit => r.payload.length = 1 ∧ (r.payload.headD 0).toNat < 16
          | .refusedState => r.payload.length ≤ 1
          | .refusedLocked | .refusedFull | .refusedDuplicate | .unknownRequest => r.payload = []
          | .done => True

/-- JUNCTION_WRITE (R28, R29). -/
def Obligations.JunctionWrites : Prop :=
  (∀ (tag : Byte) (x : JunctionCfg) (s : State),
      s.active = true →
      x.inRange = true →
      unitsOf s.account.granted ≤ x.loadBudget →
      (s.unit.lock = true → x.loadBudget = s.unit.junction.loadBudget) →
      ∃ t, exec (.junctionWrite tag 0 x.words) s = .next t
      ∧ t.tables = { s.tables with junction := x } ∧ replied t 0 tag .done [] ∧ s.sameOutside t ∧ s.sameChains t
      ∧ t.pins = s.pins ∧ t.zones = s.zones
      ∧ (x.loadBudget = s.unit.junction.loadBudget →
          t = (s.modUnit fun u => { u with junction := x }).withReply 0 tag .done []))
  ∧ (∀ (tag : Byte) (x : JunctionCfg) (s : State),
      s.active = true →
      x.inRange = true →
      s.unit.lock = true →
      x.loadBudget ≠ s.unit.junction.loadBudget →
      exec (.junctionWrite tag 0 x.words) s = .next (s.withReply 0 tag .refusedLocked []))
  ∧ (∀ (tag : Byte) (x : JunctionCfg) (s : State),
      s.active = true →
      x.inRange = true →
      (s.unit.lock = true → x.loadBudget = s.unit.junction.loadBudget) →
      x.loadBudget < unitsOf s.account.granted →
      exec (.junctionWrite tag 0 x.words) s = .next (s.withReply 0 tag .refusedState [4]))

/-- BRANCH_WRITE and POSITION_WRITE (R40, R43 to R46, R61, R74, R124). -/
def Obligations.BranchAndPositionWrites : Prop :=
  (∀ (tag : Byte) (b : BranchId) (x : BranchCfg) (s : State),
      s.active = true →
      s.unit.lock = false →
      x.inRange = true →
      ∃ t, exec (.branchWrite tag (enc b.val) x.words) s = .next t
      ∧ t.tables = { s.tables with branches := s.tables.branches.set b.val x } ∧ replied t 0 tag .done []
      ∧ t.trunk = s.trunk
      ∧ (if x.enable then t.branch b = { s.branch b with cfg := x } else (t.branch b).state = .disabled)
      ∧ (∀ c, c ≠ b → t.branch c = s.branch c) ∧ t.slots = s.slots ∧ t.pins = s.pins)
  ∧ (∀ (tag : Byte) (n : PosId) (x : PositionCfg) (s : State),
      s.active = true →
      s.unit.lock = false →
      x.inRange = true →
      ∃ t, exec (.positionWrite tag (enc n.val) x.words) s = .next t
      ∧ t.tables.positions = s.tables.positions.set n.val x
      ∧ { t.tables with positions := s.tables.positions, routes := s.tables.routes } = s.tables
      ∧ (∀ m, m ≠ n → t.position m = s.position m)
      ∧ (let old := (s.position n).cfg
         if old.enabled ≠ x.enabled ∨ (old.enabled = true ∧ (old.cls ≠ x.cls ∨ old.zone ≠ x.zone)) then
           t.position n = ⟨x, .unknown, 0, none, none, none⟩
         else t.position n = { s.position n with cfg := x })
      ∧ (let old := (s.position n).cfg
         if old.enabled = true ∧ old.cls = .general ∧ (x.enabled = false ∨ x.cls ≠ .general) then
           (∀ i, t.slot i = if (s.slot i).entry.names = some n then
               { s.slot i with entry := { (s.slot i).entry with valid := false, place := none }, holding := none,
                               fresh := false }
             else s.slot i)
           ∧ replied t 0 tag .done [enc ((each 64).filter fun i => (s.slot i).entry.names == some n).length]
         else t.slots = s.slots ∧ replied t 0 tag .done [0])
      ∧ t.branches = s.branches ∧ t.pins = s.pins ∧ t.trunk = s.trunk)
  ∧ (∀ (tag : Byte) (n : PosId) (x : PositionCfg) (z : ZoneId) (s : State),
      s.active = true →
      s.unit.lock = false →
      x.inRange = true →
      (s.position n).cfg.enabled = true →
      x.enabled = true →
      x.fixed ≠ (s.position n).cfg.fixed →
      x.zone = some z →
      (s.zone z).state ≠ .unused →
      ∃ t, exec (.positionWrite tag (enc n.val) x.words) s = .next t
      ∧ (t.zone z).fault = ((s.zone z).fault && !t.fixedPresent z))

/-- ROUTE_WRITE (R65, R66). -/
def Obligations.RouteWrites : Prop :=
  (∀ (tag : Byte) (i : SlotId) (b : BranchId) (p : PlaceId) (k : Nat) (w : Bool) (s : State),
      s.active = true →
      s.logical (posIndex b p) = some k →
      (s.position (posIndex b p)).cfg.cls = .general →
      (∀ j, j ≠ i → (s.slot j).entry.names ≠ some (posIndex b p)) →
      ∃ t, exec (.routeWrite tag (enc i.val) [1, enc b.val, enc k, encFlag w]) s = .next t
      ∧ (t.slot i).entry = ⟨true, b, some p, w⟩ ∧ (t.slot i).void = (s.slot i).void
      ∧ { t with slots := s.slots } = s.withReply 0 tag .done [] ∧ (∀ j, j ≠ i → t.slot j = s.slot j)
      ∧ (if (s.slot i).entry.valid = true ∧ (s.slot i).entry.branch = b ∧ (s.slot i).entry.place = some p then
          (t.slot i).holding = (s.slot i).holding ∧ (t.slot i).fresh = (s.slot i).fresh
        else (t.slot i).holding = none ∧ (t.slot i).fresh = false))
  ∧ (∀ (tag : Byte) (i : SlotId) (b : BranchId) (k : Word) (w : Bool) (s : State),
      s.active = true →
      1 ≤ k.toNat →
      k.toNat ≤ 16 →
      ∃ t, exec (.routeWrite tag (enc i.val) [0, enc b.val, k, encFlag w]) s = .next t
      ∧ (t.slot i).entry = ⟨false, b, none, w⟩ ∧ (t.slot i).void = (s.slot i).void
      ∧ { t with slots := s.slots } = s.withReply 0 tag .done [] ∧ (∀ j, j ≠ i → t.slot j = s.slot j)
      ∧ (if (s.slot i).entry.valid = false ∧ (s.slot i).entry.branch = b ∧ (s.slot i).entry.place = none then
          (t.slot i).holding = (s.slot i).holding ∧ (t.slot i).fresh = (s.slot i).fresh
        else (t.slot i).holding = none ∧ (t.slot i).fresh = false))
  ∧ (∀ (tag : Byte) (i : SlotId) (b : BranchId) (k w : Word) (s : State),
      s.active = true →
      1 ≤ k.toNat →
      k.toNat ≤ 16 →
      (∀ p, s.logical (posIndex b p) ≠ some k.toNat) →
      exec (.routeWrite tag (enc i.val) [1, enc b.val, k, w]) s =
        .next (s.withReply 0 tag .refusedRange [3]))
  ∧ (∀ (tag : Byte) (i j : SlotId) (b : BranchId) (p : PlaceId) (k : Nat) (w : Bool) (s : State),
      s.active = true →
      s.logical (posIndex b p) = some k →
      (s.position (posIndex b p)).cfg.cls ≠ .general ∨ j ≠ i ∧ (s.slot j).entry.names = some (posIndex b p) →
      exec (.routeWrite tag (enc i.val) [1, enc b.val, enc k, encFlag w]) s =
        .next (s.withReply 0 tag .refusedConflict [3]))

/-- PIN_WRITE (R76 to R78, R80, R81, R122, R134 to R137, R156, R157). The clause that brings a ramp into service has no function on two pins, which every step keeps (PinAndBindingLawsKept). The clause that brings a door into service is on a write that completes its required pins (R26). -/
def Obligations.PinWrites : Prop :=
  (∀ (tag : Byte) (p : PinId) (x : PinCfg) (s : State),
      s.active = true →
      s.unit.lock = false →
      x.inRange = true →
      x.function = .unused ∨ x.function = .generalIn ∨ x.function = .generalOut ∨
        (∀ q, q ≠ p → (s.pin q).cfg.function ≠ x.function) →
      x.function ≠ (s.pin p).cfg.function ∨ x.units = (s.pin p).cfg.units ∨ s.account.find (pinClaimant p) = none →
      ∃ t, exec (.pinWrite tag (enc p.val) x.words) s = .next t
      ∧ t.tables = { s.tables with pins := s.tables.pins.set p.val x } ∧ replied t 0 tag .done [] ∧ s.sameOutside t
      ∧ s.sameChains t
      ∧ (∀ q, q ≠ p → t.pin q = s.pin q)
      ∧ t.pin p = if x.function = (s.pin p).cfg.function then { s.pin p with cfg := x }
          else { cfg := x, raw := (s.pin p).raw, setting := .off, filterTimer := none,
                 filtered := if x.function.isInput then (s.pin p).raw else (s.pin p).filtered })
  ∧ (∀ (tag : Byte) (p q : PinId) (x : PinCfg) (s : State),
      s.active = true →
      s.unit.lock = false →
      x.inRange = true →
      q ≠ p →
      (s.pin q).cfg.function = x.function →
      x.function ≠ .unused →
      x.function ≠ .generalIn →
      x.function ≠ .generalOut →
      exec (.pinWrite tag (enc p.val) x.words) s = .next (s.withReply 0 tag .refusedConflict [1]))
  ∧ (∀ (tag : Byte) (p : PinId) (x : PinCfg) (s : State),
      s.active = true →
      s.unit.lock = false →
      x.inRange = true →
      x.function = .unused ∨ x.function = .generalIn ∨ x.function = .generalOut ∨
        (∀ q, q ≠ p → (s.pin q).cfg.function ≠ x.function) →
      x.function = (s.pin p).cfg.function →
      x.units ≠ (s.pin p).cfg.units →
      (s.account.find (pinClaimant p)).isSome = true →
      exec (.pinWrite tag (enc p.val) x.words) s = .next (s.withReply 0 tag .refusedState [5]))
  ∧ (∀ (tag : Byte) (p : PinId) (x : PinCfg) (s : State),
      s.active = true →
      s.unit.lock = false →
      x.inRange = true →
      x.function = .unused ∨ x.function = .generalIn ∨ x.function = .generalOut ∨
        (∀ q, q ≠ p → (s.pin q).cfg.function ≠ x.function) →
      x.function = (s.pin p).cfg.function →
      x.units = (s.pin p).cfg.units ∨ s.account.find (pinClaimant p) = none →
      x.polarity = (s.pin p).cfg.polarity ∨ x.function.isInput = false →
      exec (.pinWrite tag (enc p.val) x.words) s =
        .next ((s.modPin p fun y => { y with cfg := x }).withReply 0 tag .done []))
  ∧ (∀ (tag : Byte) (p : PinId) (x : PinCfg) (s : State),
      s.active = true →
      s.unit.lock = false →
      x.inRange = true →
      x.function = .unused ∨ x.function = .generalIn ∨ x.function = .generalOut ∨
        (∀ q, q ≠ p → (s.pin q).cfg.function ≠ x.function) →
      x.function = (s.pin p).cfg.function →
      x.function.isInput = true →
      x.polarity ≠ (s.pin p).cfg.polarity →
      x.units = (s.pin p).cfg.units ∨ s.account.find (pinClaimant p) = none →
      ∃ t, exec (.pinWrite tag (enc p.val) x.words) s = .next t
      ∧ (x.report = true → s.postsFirst t .inputChange p.val (encFlag (x.polarity.apply (s.pin p).filtered))))
  ∧ (∀ (tag : Byte) (p : PinId) (x : PinCfg) (z : ZoneId) (s : State),
      s.active = true →
      s.unit.lock = false →
      x.inRange = true →
      x.function = .unused ∨ x.function = .generalIn ∨ x.function = .generalOut ∨
        (∀ q, q ≠ p → (s.pin q).cfg.function ≠ x.function) →
      x.function = (s.pin p).cfg.function →
      x.function.isInput = true →
      x.polarity ≠ (s.pin p).cfg.polarity →
      x.units = (s.pin p).cfg.units ∨ s.account.find (pinClaimant p) = none →
      x.polarity.apply (s.pin p).filtered = true →
      x.function = .callPoint z →
      (s.zone z).state = .normal ∨ (s.zone z).state = .preAlarm →
      ∃ t, exec (.pinWrite tag (enc p.val) x.words) s = .next t
      ∧ (t.zone z).state = .alarm)
  ∧ (∀ (tag : Byte) (p : PinId) (x : PinCfg) (d : DoorId) (s : State),
      s.active = true →
      s.unit.lock = false →
      x.inRange = true →
      x.function = .unused ∨ x.function = .generalIn ∨ x.function = .generalOut ∨
        (∀ q, q ≠ p → (s.pin q).cfg.function ≠ x.function) →
      x.function = (s.pin p).cfg.function →
      x.function.isInput = true →
      x.polarity ≠ (s.pin p).cfg.polarity →
      x.units = (s.pin p).cfg.units ∨ s.account.find (pinClaimant p) = none →
      x.polarity.apply (s.pin p).filtered = true →
      s.pinOf (.doorClosedLimit d) = some p →
      (s.door d).state = .closing →
      s.inputActive (.doorOpenLimit d) = false →
      ∃ t, exec (.pinWrite tag (enc p.val) x.words) s = .next t
      ∧ t.door d = s.doorSet d .closed .limit none ∧ t.noDoorClaim d)
  ∧ (∀ (tag : Byte) (p : PinId) (x : PinCfg) (s : State),
      s.active = true →
      s.unit.lock = false →
      x.inRange = true →
      x.function = .unused ∨ x.function = .generalIn ∨ x.function = .generalOut ∨
        (∀ q, q ≠ p → (s.pin q).cfg.function ≠ x.function) →
      x.function ≠ (s.pin p).cfg.function →
      x.function = .unused ∨ x.function = .generalIn ∨ x.function = .generalOut →
      ∃ t, exec (.pinWrite tag (enc p.val) x.words) s = .next t
      ∧ t.account.find (pinClaimant p) = none)
  ∧ (∀ (tag : Byte) (p : PinId) (x : PinCfg) (d : DoorId) (s : State),
      s.active = true →
      s.unit.lock = false →
      x.inRange = true →
      x.function = .unused ∨ x.function = .generalIn ∨ x.function = .generalOut ∨
        (∀ q, q ≠ p → (s.pin q).cfg.function ≠ x.function) →
      x.function ≠ (s.pin p).cfg.function →
      x.function.door? = some d ∨ (s.pin p).cfg.function.door? = some d →
      (s.door d).state ≠ .disabled →
      (s.pinWritten p x).doorReady d = false →
      ∃ t, exec (.pinWrite tag (enc p.val) x.words) s = .next t
      ∧ t.door d = s.doorSet d .disabled .pins none ∧ t.noDoorClaim d)
  ∧ (∀ (tag : Byte) (p : PinId) (x : PinCfg) (d : DoorId) (s : State),
      s.active = true →
      s.unit.lock = false →
      x.inRange = true →
      x.function = .unused ∨ x.function = .generalIn ∨ x.function = .generalOut ∨
        (∀ q, q ≠ p → (s.pin q).cfg.function ≠ x.function) →
      x.function ≠ (s.pin p).cfg.function →
      x.function.door? = some d ∨ (s.pin p).cfg.function.door? = some d →
      (s.door d).state = .disabled →
      (s.door d).cfg.enabled = true →
      (s.door d).reason = .pins →
      s.doorReady d = false →
      (s.pinWritten p x).doorReady d = true →
      ∃ t, exec (.pinWrite tag (enc p.val) x.words) s = .next t
      ∧ (s.pinWritten p x).doorDerived t d)
  ∧ (∀ (tag : Byte) (p : PinId) (x : PinCfg) (r : RampId) (s : State),
      s.active = true →
      s.unit.lock = false →
      x.inRange = true →
      x.function = .unused ∨ x.function = .generalIn ∨ x.function = .generalOut ∨
        (∀ q, q ≠ p → (s.pin q).cfg.function ≠ x.function) →
      x.function ≠ (s.pin p).cfg.function →
      x.function.ramp? = some r ∨ (s.pin p).cfg.function.ramp? = some r →
      (s.ramp r).state ≠ .disabled →
      (s.pinWritten p x).rampReady r = false →
      ∃ t, exec (.pinWrite tag (enc p.val) x.words) s = .next t
      ∧ t.ramp r = { s.rampStill r .disabled .pins with lockWanted := false, slowMark := (t.ramp r).slowMark }
      ∧ (s.rampReady r = true → s.account.find (pinClaimant p) = none → (t.ramp r).slowMark = (s.ramp r).slowMark)
      ∧ t.account.find (driveClaimant r) = none
      ∧ t.functionStanding (.rampBeacon r) = .none)
  ∧ (∀ (tag : Byte) (p : PinId) (x : PinCfg) (r : RampId) (s : State),
      s.active = true →
      s.unit.lock = false →
      x.inRange = true →
      x.function = .unused ∨ x.function = .generalIn ∨ x.function = .generalOut ∨
        (∀ q, q ≠ p → (s.pin q).cfg.function ≠ x.function) →
      x.function ≠ (s.pin p).cfg.function →
      x.function.ramp? = some r ∨ (s.pin p).cfg.function.ramp? = some r →
      (s.ramp r).state = .disabled →
      (s.ramp r).cfg.enabled = true →
      (s.ramp r).cmdDisabled = false →
      (s.ramp r).reason = .pins →
      (s.pinWritten p x).rampReady r = true →
      s.pinLaw →
      ∃ t, exec (.pinWrite tag (enc p.val) x.words) s = .next t
      ∧ (s.pinWritten p x).rampDerived t r)
  ∧ (∀ (tag : Byte) (p : PinId) (x : PinCfg) (z : ZoneId) (s : State),
      s.active = true →
      s.unit.lock = false →
      x.inRange = true →
      x.function = .unused ∨ x.function = .generalIn ∨ x.function = .generalOut ∨
        (∀ q, q ≠ p → (s.pin q).cfg.function ≠ x.function) →
      x.function ≠ (s.pin p).cfg.function →
      x.function = .callPoint z →
      x.polarity.apply (s.pin p).raw = true →
      (s.zone z).state = .normal ∨ (s.zone z).state = .preAlarm →
      ∃ t, exec (.pinWrite tag (enc p.val) x.words) s = .next t
      ∧ (t.zone z).state = .alarm)

/-- CHANNEL_WRITE (R95 to R98, R108). -/
def Obligations.ChannelWrites : Prop :=
  (∀ (tag : Byte) (c : ChanId) (x : ChannelCfg) (s : State),
      s.active = true →
      s.unit.lock = false →
      x.inRange = true →
      s.channelConflict c x = none →
      ∃ t, exec (.channelWrite tag (enc c.val) x.words) s = .next t
      ∧ (t.channel c).cfg = x ∧ replied t 0 tag .done [] ∧ s.sameOutside t ∧ s.sameChains t ∧ t.pins = s.pins
      ∧ { t.tables with channels := s.tables.channels } = s.tables
      ∧ (∀ e, e ≠ c → (t.channel e).cfg =
          if x.binding.isPair = true ∧ x.binding ≠ (s.channel c).cfg.binding ∧ e = partnerOf c then .reset
          else (s.channel e).cfg)
      ∧ (x.binding ≠ (s.channel c).cfg.binding → match x.binding with
          | .rampEncoder _ | .zoneDetector _ => (match (t.channel c).run with
            | .counting _ => True
            | _ => False)
          | .none => (t.channel c).run = .stopped
          | _ => True))
  ∧ (∀ (tag : Byte) (c : ChanId) (x : ChannelCfg) (s : State),
      s.active = true →
      s.unit.lock = false →
      x.inRange = true →
      s.channelConflict c x = none →
      (s.channel c).cfg.binding = .none →
      x.binding = .chime ∨ x.binding = .flash1 ∨ x.binding = .flash2 →
      ∃ t, exec (.channelWrite tag (enc c.val) x.words) s = .next t
      ∧ { t with channels := s.channels } = s.withReply 0 tag .done []
      ∧ (t.channel c).run = if x.binding = .chime then .stopped
          else .pwm ⟨0, 0, x.period, x.duty, none, none, decide (0 < x.duty)⟩)
  ∧ (∀ (tag : Byte) (c : ChanId) (x : ChannelCfg) (s : State),
      s.active = true →
      s.unit.lock = false →
      x.inRange = true →
      x.binding.isPair = true ∧ c.val % 2 = 1
        ∨ c.val % 2 = 1 ∧ (s.channel (masterOf c)).cfg.binding.isPair = true
        ∨ x.binding.isPair = true ∧ c.val % 2 = 0 ∧ (s.channel (partnerOf c)).cfg.binding ≠ .none
        ∨ x.binding ≠ .none ∧ (∃ e, e ≠ c ∧ (s.channel e).cfg.binding = x.binding) →
      exec (.channelWrite tag (enc c.val) x.words) s = .next (s.withReply 0 tag .refusedConflict [1]))
  ∧ (∀ (tag : Byte) (c : ChanId) (x : ChannelCfg) (s : State),
      s.active = true →
      s.unit.lock = false →
      x.inRange = true →
      x.clock = .milli →
      x.binding = .chime ∨ x.binding = .rampSpeed 0 ∨ x.binding = .rampSpeed 1 →
      s.channelConflict c { x with clock := .micro } = none →
      exec (.channelWrite tag (enc c.val) x.words) s = .next (s.withReply 0 tag .refusedConflict [3]))
  ∧ (∀ (tag : Byte) (c : ChanId) (x : ChannelCfg) (s : State),
      s.active = true →
      s.unit.lock = false →
      x.inRange = true →
      s.channelConflict c x = none →
      (s.channel c).cfg.binding = .none →
      (s.channel c).run = .stopped →
      x.binding = .none →
      exec (.channelWrite tag (enc c.val) x.words) s =
        .next ((s.modChannel c fun _ => ⟨x, .stopped⟩).withReply 0 tag .done []))
  ∧ (∀ (tag : Byte) (c : ChanId) (x : ChannelCfg) (y : PwmRun) (s : State),
      s.active = true →
      s.unit.lock = false →
      x.inRange = true →
      s.channelConflict c x = none →
      x.binding = .flash1 ∨ x.binding = .flash2 →
      x.binding = (s.channel c).cfg.binding →
      x.clock = (s.channel c).cfg.clock →
      x ≠ (s.channel c).cfg →
      (s.channel c).run = .pwm y →
      exec (.channelWrite tag (enc c.val) x.words) s =
        .next ((s.modChannel c fun _ => ⟨x, .pwm { y with bufPeriod := some x.period, bufDuty := some x.duty }⟩).withReply 0
          tag .done []))

/-- CHIME_WRITE (R109) and ZONE_WRITE (R115, R116). -/
def Obligations.ZoneAndChimeWrites : Prop :=
  (∀ (tag : Byte) (k : ChimeId) (x : ChimeCfg) (s : State),
      s.active = true →
      x.inRange = true →
      exec (.chimeWrite tag (enc k.val) x.words) s =
        .next ((s.modChime k fun _ => x).withReply 0 tag .done []))
  ∧ (∀ (tag : Byte) (z : ZoneId) (x : ZoneCfg) (s : State),
      s.active = true →
      x.inRange = true →
      x.configured = true ∨ s.alarmed z = false →
      x ≠ (s.zone z).cfg →
      ∃ t, exec (.zoneWrite tag (enc (z.val + 1)) x.words) s = .next t
      ∧ { t.tables with zones := s.tables.zones } = s.tables ∧ t.tables.zones = s.tables.zones.set z.val x
      ∧ replied t 0 tag .done []
      ∧ s.sameOutside t ∧ s.sameChains t ∧ t.pins = s.pins ∧ (∀ y, y ≠ z → t.zone y = s.zone y)
      ∧ (if x.configured = true ∧ (s.zone z).state = .unused then
          (t.zone z).state = if s.sourceActive z then .alarm else .normal
        else if x.configured = false ∧ (s.zone z).state ≠ .unused then
          t.zone z = ⟨x, .unused, none, false⟩
        else t.zone z = { s.zone z with cfg := x }))
  ∧ (∀ (tag : Byte) (z : ZoneId) (x : ZoneCfg) (s : State),
      s.active = true →
      x.inRange = true →
      x.configured = false →
      s.alarmed z = true →
      exec (.zoneWrite tag (enc (z.val + 1)) x.words) s = .next (s.withReply 0 tag .refusedState [1]))

/-- DOOR_WRITE (R132 to R135) and RAMP_WRITE (R154 to R157). -/
def Obligations.DoorAndRampWrites : Prop :=
  (∀ (tag : Byte) (d : DoorId) (x : DoorCfg) (s : State),
      s.active = true →
      x.inRange = true →
      ∃ t, exec (.doorWrite tag (enc (d.val + 1)) x.words) s = .next t
      ∧ t.tables = { s.tables with doors := s.tables.doors.set d.val x } ∧ replied t 0 tag .done [] ∧ s.sameOutside t
      ∧ s.sameChains t ∧ t.pins = s.pins
      ∧ t.zones = s.zones ∧ s.otherDoorsKept t (· = d) ∧ s.otherRampsKept t (fun _ => False))
  ∧ (∀ (tag : Byte) (d : DoorId) (x : DoorCfg) (s : State),
      s.active = true →
      x.inRange = true →
      x.enabled = false →
      (s.door d).cfg.enabled = true →
      (s.door d).state ≠ .disabled →
      ∃ t, exec (.doorWrite tag (enc (d.val + 1)) x.words) s = .next t
      ∧ t.door d = { cfg := x, state := .disabled, reason := .record, timer := none, holdsUsed := 0, retriesUsed := 0,
                     holdRequest := false, retryPulse := false } ∧ t.noDoorClaim d ∧ replied t 0 tag .done [])
  ∧ (∀ (tag : Byte) (d : DoorId) (x : DoorCfg) (s : State),
      s.active = true →
      x.inRange = true →
      x.enabled = (s.door d).cfg.enabled →
      x.enabled = true ∨ (s.door d).state = .disabled →
      x.zone = (s.door d).cfg.zone →
      x.kind = (s.door d).cfg.kind →
      ¬s.awaitsGrant d →
      ∃ t, exec (.doorWrite tag (enc (d.val + 1)) x.words) s = .next t
      ∧ t.door d = { s.door d with cfg := x } ∧ replied t 0 tag .done [])
  ∧ (∀ (tag : Byte) (d : DoorId) (x : DoorCfg) (s : State),
      s.active = true →
      x.inRange = true →
      x.enabled = (s.door d).cfg.enabled →
      x.enabled = true ∨ (s.door d).state = .disabled →
      x.zone = (s.door d).cfg.zone →
      x.kind = (s.door d).cfg.kind →
      s.warningLaw →
      exec (.doorWrite tag (enc (d.val + 1)) x.words) s =
        .next ((s.modDoor d fun y => { y with cfg := x }).withReply 0 tag .done []))
  ∧ (∀ (tag : Byte) (d : DoorId) (x : DoorCfg) (s : State),
      s.active = true →
      x.inRange = true →
      x.enabled = true →
      (s.door d).cfg.enabled = false →
      (s.door d).state = .disabled →
      (s.door d).reason = .record →
      s.pinOf (.doorClosedLimit d) = none ∨ x.kind = .magnet ∧ s.pinOf (.doorHoldback d) = none
        ∨ x.kind = .latch ∧ s.pinOf (.doorRelease d) = none →
      ∃ t, exec (.doorWrite tag (enc (d.val + 1)) x.words) s = .next t
      ∧ t.door d = { s.door d with cfg := x, reason := .pins } ∧ replied t 0 tag .done [])
  ∧ (∀ (tag : Byte) (d : DoorId) (x : DoorCfg) (s : State),
      s.active = true →
      x.inRange = true →
      x.enabled = true →
      (s.door d).cfg.enabled = false →
      (s.door d).state = .disabled →
      (s.door d).reason = .record →
      (s.pinOf (.doorClosedLimit d)).isSome = true →
      x.kind = .magnet ∧ (s.pinOf (.doorHoldback d)).isSome = true
        ∨ x.kind = .latch ∧ (s.pinOf (.doorRelease d)).isSome = true →
      ∃ t, exec (.doorWrite tag (enc (d.val + 1)) x.words) s = .next t
      ∧ (s.modDoor d fun y => { y with cfg := x }).doorDerived t d ∧ replied t 0 tag .done [])
  ∧ (∀ (tag : Byte) (r : RampId) (x : RampCfg) (s : State),
      s.active = true →
      x.inRange = true →
      ∃ t, exec (.rampWrite tag (enc (r.val + 1)) x.words) s = .next t
      ∧ t.tables = { s.tables with ramps := s.tables.ramps.set r.val x } ∧ replied t 0 tag .done [] ∧ s.sameOutside t
      ∧ s.sameChains t ∧ t.pins = s.pins
      ∧ t.zones = s.zones ∧ t.calls = s.calls ∧ s.otherDoorsKept t (fun _ => False) ∧ s.otherRampsKept t (· = r))
  ∧ (∀ (tag : Byte) (r : RampId) (x : RampCfg) (s : State),
      s.active = true →
      x.inRange = true →
      x.enabled = false →
      (s.ramp r).cfg.enabled = true →
      (s.ramp r).state ≠ .disabled →
      ∃ t, exec (.rampWrite tag (enc (r.val + 1)) x.words) s = .next t
      ∧ t.ramp r = { s.ramp r with cfg := x, state := .disabled, reason := .disabled, grace := none, timer := none,
                                   lockWanted := false } ∧ t.account.find (driveClaimant r) = none
                                       ∧ replied t 0 tag .done [])
  ∧ (∀ (tag : Byte) (r : RampId) (x : RampCfg) (s : State),
      s.active = true →
      x.inRange = true →
      x.enabled = (s.ramp r).cfg.enabled →
      x.enabled = true ∨ (s.ramp r).state = .disabled →
      x.zone = (s.ramp r).cfg.zone →
      exec (.rampWrite tag (enc (r.val + 1)) x.words) s =
        .next ((s.modRamp r fun y => { y with cfg := x }).withReply 0 tag .done []))
  ∧ (∀ (tag : Byte) (r : RampId) (x : RampCfg) (s : State),
      s.active = true →
      x.inRange = true →
      x.enabled = true →
      (s.ramp r).cfg.enabled = false →
      (s.ramp r).state = .disabled →
      (s.ramp r).cmdDisabled = false →
      s.rampReady r = false →
      exec (.rampWrite tag (enc (r.val + 1)) x.words) s =
        .next ((s.modRamp r fun y => { y with cfg := x, reason := .pins }).withReply 0 tag .done []))
  ∧ (∀ (tag : Byte) (r : RampId) (x : RampCfg) (s : State),
      s.active = true →
      x.inRange = true →
      x.enabled = true →
      (s.ramp r).cfg.enabled = false →
      (s.ramp r).state = .disabled →
      (s.ramp r).cmdDisabled = false →
      s.rampReady r = true →
      ∃ t, exec (.rampWrite tag (enc (r.val + 1)) x.words) s = .next t
      ∧ (s.modRamp r fun y => { y with cfg := x }).rampDerived t r ∧ replied t 0 tag .done [])

/-- PERMIT_WRITE (R173, R174, R179) and the re-evaluation of driven ramps (R177, R178). That a required word of 1 for a door, ramp
or zone is the set of the state coded 0 is the model's choice (log entry 45). -/
def Obligations.PermitWrites : Prop :=
  (∀ (tag : Byte) (k : PermitId) (x : PermitEntry) (s : State),
      s.active = true →
      x.used = true →
      x.inRange = true →
      (∀ j, j ≠ k → (s.permit j).used = true → (s.permit j).action ≠ x.action) →
      (∀ r, x.action = .rampLower r ∨ x.action = .rampRaise r → ∀ c ∈ x.conditions, c.subject ≠ some (.ramp r)) →
      ∃ t, exec (.permitWrite tag (enc k.val) x.words) s = .next t
      ∧ t.tables = { s.tables with permits := s.tables.permits.set k.val x } ∧ replied t 0 tag .done []
      ∧ s.sameOutside t ∧ s.sameChains t ∧ t.pins = s.pins
      ∧ t.zones = s.zones ∧ t.calls = s.calls ∧ s.otherDoorsKept t (fun _ => False)
      ∧ (∀ r, x ≠ s.permit k → (s.ramp r).state.driven = true → x.action = rampAction r (s.ramp r).direction →
          x.conditions.all s.holds = false → (t.ramp r).state = .held ∧ (t.ramp r).reason = .permit))
  ∧ (∀ (tag : Byte) (k : PermitId) (ws : List Word) (s : State),
      s.active = true →
      ws.length = 19 →
      exec (.permitWrite tag (enc k.val) (0 :: ws)) s =
        .next ((s.modPermit k fun _ => ⟨false, .rampLower 0, [.cleared]⟩).withReply 0 tag .done []))
  ∧ (∀ (tag : Byte) (k j : PermitId) (x : PermitEntry) (s : State),
      s.active = true →
      x.used = true →
      x.inRange = true →
      j ≠ k →
      (s.permit j).used = true →
      (s.permit j).action = x.action →
      exec (.permitWrite tag (enc k.val) x.words) s = .next (s.withReply 0 tag .refusedConflict [2]))
  ∧ (∀ (tag : Byte) (k : PermitId) (x : PermitEntry) (r : RampId) (i : Nat) (s : State),
      s.active = true →
      x.used = true →
      x.inRange = true →
      (∀ j, j ≠ k → (s.permit j).used = true → (s.permit j).action ≠ x.action) →
      x.action = .rampLower r ∨ x.action = .rampRaise r →
      (x.conditions[i]?).bind Condition.subject = some (.ramp r) →
      (∀ j < i, (x.conditions[j]?).bind Condition.subject ≠ some (.ramp r)) →
      exec (.permitWrite tag (enc k.val) x.words) s =
        .next (s.withReply 0 tag .refusedConflict [enc (6 + 4 * i)]))
  ∧ (∀ (p : PinId) (level : Bool) (r : RampId) (e : PermitId) (s : State),
      (s.pin p).cfg.function = .generalIn →
      (s.pin p).cfg.filter = 0 →
      level ≠ (s.pin p).raw →
      level ≠ (s.pin p).filtered →
      s.driveGuard r = some e →
      s.namesSubject e (.pin p) = true →
      (s.levelTaken p level).satisfied e = false →
      (∀ q < r, (s.ramp q).state.driven = false) →
      ∃ t, exec (.rawInputChange p level) s = .next t
      ∧ t.ramp r = s.rampStill r .held .permit ∧ t.account.find (driveClaimant r) = none
      ∧ s.posted t .rampState (r.val + 1) (twoPart 8 2)
      ∧ s.posted t .permitDropped (r.val + 1) (BitVec.ofNat 16 e.val))
  ∧ (∀ (p : PinId) (level : Bool) (s : State),
      (s.pin p).cfg.function = .generalIn →
      (s.pin p).cfg.filter = 0 →
      level ≠ (s.pin p).raw →
      level ≠ (s.pin p).filtered →
      (∀ r, ∀ e ∈ s.driveGuard r, s.namesSubject e (.pin p) = true → (s.levelTaken p level).satisfied e = true) →
      exec (.rawInputChange p level) s =
        .next (if (s.pin p).cfg.report then
          (s.levelTaken p level).post .inputChange p.val (encFlag ((s.pin p).cfg.polarity.apply level))
        else s.levelTaken p level))

/-- TABLE_READ (R27, R67, R96; log entry 11). -/
def Obligations.TableReads : Prop :=
  (∀ (tag : Byte) (s : State),
      s.active = true →
      exec (.tableRead tag 0 0) s = .next (s.withReply 1 tag .done s.unit.junction.words))
  ∧ (∀ (tag : Byte) (b : BranchId) (s : State),
      s.active = true →
      exec (.tableRead tag 1 (enc b.val)) s = .next (s.withReply 1 tag .done (s.branch b).cfg.words))
  ∧ (∀ (tag : Byte) (n : PosId) (s : State),
      s.active = true →
      exec (.tableRead tag 2 (enc n.val)) s =
        .next (s.withReply 1 tag .done (s.position n).cfg.words))
  ∧ (∀ (tag : Byte) (i : SlotId) (s : State),
      s.active = true →
      exec (.tableRead tag 3 (enc i.val)) s =
        .next (s.withReply 1 tag .done [encFlag (s.slot i).entry.valid, enc (s.slot i).entry.branch.val,
          encOpt ((s.slot i).entry.place.map fun p => p.val + 1), encOpt ((s.slot i).entry.names.bind s.logical),
          encFlag (s.slot i).entry.replyWanted]))
  ∧ (∀ (tag : Byte) (p : PinId) (s : State),
      s.active = true →
      exec (.tableRead tag 4 (enc p.val)) s = .next (s.withReply 1 tag .done (s.pin p).cfg.words))
  ∧ (∀ (tag : Byte) (c : ChanId) (s : State),
      s.active = true →
      exec (.tableRead tag 5 (enc c.val)) s =
        .next (s.withReply 1 tag .done (if c.val % 2 = 1 ∧ (s.channel (masterOf c)).cfg.binding.isPair = true then
            (s.channel (masterOf c)).cfg.words else (s.channel c).cfg.words)))
  ∧ (∀ (tag : Byte) (k : ChimeId) (s : State),
      s.active = true →
      exec (.tableRead tag 6 (enc k.val)) s = .next (s.withReply 1 tag .done (s.chime k).words))
  ∧ (∀ (tag : Byte) (z : ZoneId) (s : State),
      s.active = true →
      exec (.tableRead tag 7 (enc (z.val + 1))) s =
        .next (s.withReply 1 tag .done (s.zone z).cfg.words))
  ∧ (∀ (tag : Byte) (d : DoorId) (s : State),
      s.active = true →
      exec (.tableRead tag 8 (enc (d.val + 1))) s =
        .next (s.withReply 1 tag .done (s.door d).cfg.words))
  ∧ (∀ (tag : Byte) (r : RampId) (s : State),
      s.active = true →
      exec (.tableRead tag 9 (enc (r.val + 1))) s =
        .next (s.withReply 1 tag .done (s.ramp r).cfg.words))
  ∧ (∀ (tag : Byte) (k : PermitId) (s : State),
      s.active = true →
      exec (.tableRead tag 10 (enc k.val)) s = .next (s.withReply 1 tag .done (s.permit k).words))

/-- STATE_READ (R32 to R34). -/
def Obligations.StateReads : Prop :=
  (∀ (tag : Byte) (k i : Word) (s : State),
      s.active = true →
      ∃ t, exec (.stateRead tag k i) s = .next t
      ∧ { t with freeSeq := s.freeSeq, unit := { t.unit with reply := s.unit.reply } } = s)
  ∧ (∀ (tag : Byte) (b : BranchId) (s : State),
      s.active = true →
      exec (.stateRead tag 3 (enc b.val)) s =
        .next (s.withReply 3 tag .done
        [enc (s.branch b).state.ctorIdx, enc (s.branch b).checkRun, enc (s.branch b).number.toNat,
         enc (s.enabledPlaces b).length, encFlag (s.branch b).held]))
  ∧ (∀ (tag : Byte) (n : PosId) (s : State),
      s.active = true →
      exec (.stateRead tag 4 (enc n.val)) s =
        .next (s.withReply 3 tag .done
        ([encFlag (s.position n).cfg.enabled, enc (s.position n).cfg.cls.ctorIdx, encOpt (s.logical n),
          enc (s.position n).presence.ctorIdx, enc (s.position n).missRun] ++ encOpt2 (s.position n).pendingWord
          ++ encOpt2 (s.position n).lastWord ++ encOpt2 (s.position n).lastReply)))
  ∧ (∀ (tag : Byte) (page : Fin 2) (s : State),
      s.active = true →
      exec (.stateRead tag 6 (enc page.val)) s =
        .next (s.withReply 3 tag .done
        ([enc s.unit.junction.loadBudget, enc (unitsOf s.account.granted), enc s.account.granted.length,
          enc s.account.pending.length] ++ ((s.allClaims.drop (24 * page.val)).take 24).map Claim.word)))
  ∧ (∀ (tag : Byte) (d : DoorId) (k : Nat) (s : State),
      s.active = true →
      (s.door d).timer = some (1000 * k) ∨ (s.door d).timer = none ∧ k = 0 →
      k < 65536 →
      ∃ t, exec (.stateRead tag 0 (enc (d.val + 1))) s = .next t
      ∧ replied t 3 tag .done [enc (s.door d).state.ctorIdx, enc (s.door d).reason.ctorIdx,
        enc ((s.door d).cfg.zone.val + 1), enc (s.door d).holdsUsed, enc (s.door d).retriesUsed, enc k,
        enc (s.functionStanding (if (s.door d).cfg.kind = .magnet then .doorHoldback d else .doorRelease d)).ctorIdx])
  ∧ (∀ (tag : Byte) (r : RampId) (k : Nat) (s : State),
      s.active = true →
      (s.ramp r).grace = some (1000 * k) ∨ (s.ramp r).grace = none ∧ k = 0 →
      k < 65536 →
      ∃ t, exec (.stateRead tag 1 (enc (r.val + 1))) s = .next t
      ∧ replied t 3 tag .done [enc (s.ramp r).state.ctorIdx, enc (s.ramp r).reason.ctorIdx,
        enc (s.countOf (.rampEncoder r)), encFlag (s.ramp r).lastToggle, enc k,
        enc (s.standing (driveClaimant r)).ctorIdx, encFlag (s.stowLimit r), encFlag (s.landLimit r),
        encFlag (s.lockedLimit r)])
  ∧ (∀ (tag : Byte) (z : ZoneId) (k : Nat) (s : State),
      s.active = true →
      (s.zone z).window = some (1000 * k) ∨ (s.zone z).window = none ∧ k = 0 →
      k < 65536 →
      ∃ t, exec (.stateRead tag 2 (enc (z.val + 1))) s = .next t
      ∧ replied t 3 tag .done [enc (s.zone z).state.ctorIdx, encFlag (s.zone z).fault, encFlag (s.zone z).window.isSome,
        enc (min 15 (s.countOf (.zoneDetector z))), enc k, encOpt ((s.presenting z).map fun p => p.tag.toNat),
        encOpt ((s.presenting z).map fun p => p.phase.ctorIdx)])
  ∧ (∀ (tag : Byte) (c : Byte) (s : State),
      s.active = true →
      s.findCall c = none →
      exec (.stateRead tag 7 (c.setWidth 16)) s = .next (s.withReply 3 tag .refusedState []))
  ∧ (∀ (tag : Byte) (c : ChanId) (s : State),
      s.active = true →
      s.isSlave c = false →
      (s.channel c).run = .stopped →
      exec (.stateRead tag 5 (enc c.val)) s =
        .next (s.withReply 3 tag .done
        [(s.channel c).cfg.binding.words.1, (s.channel c).cfg.binding.words.2, enc (s.channel c).cfg.clock.ctorIdx,
         enc ((s.channel c).cfg.binding.mode false).ctorIdx, 0, 0, 0, 0]))
  ∧ (∀ (tag : Byte) (c : ChanId) (x : PwmRun) (s : State),
      s.active = true →
      s.isSlave c = false →
      (s.channel c).run = .pwm x →
      x.count < 65536 →
      x.period < 65536 →
      x.bufPeriod.getD x.period < 65536 →
      exec (.stateRead tag 5 (enc c.val)) s =
        .next (s.withReply 3 tag .done
        [(s.channel c).cfg.binding.words.1, (s.channel c).cfg.binding.words.2, enc (s.channel c).cfg.clock.ctorIdx,
         enc ((s.channel c).cfg.binding.mode false).ctorIdx, 1, enc x.count, enc x.period, enc (x.bufPeriod.getD x.period)]))
  ∧ (∀ (tag : Byte) (c : ChanId) (x : PwmRun) (s : State),
      s.active = true →
      s.isSlave c = true →
      (s.channel (masterOf c)).run = .pwm x →
      x.count < 65536 →
      x.duty < 65536 →
      x.bufDuty.getD x.duty < 65536 →
      exec (.stateRead tag 5 (enc c.val)) s =
        .next (s.withReply 3 tag .done
        [(s.channel (masterOf c)).cfg.binding.words.1, (s.channel (masterOf c)).cfg.binding.words.2, enc (s.channel (masterOf c)).cfg.clock.ctorIdx,
         enc ((s.channel (masterOf c)).cfg.binding.mode true).ctorIdx, 1, enc x.count, enc x.duty, enc (x.bufDuty.getD x.duty)]))
  ∧ (∀ (tag : Byte) (c : ChanId) (s : State),
      s.active = true →
      s.isSlave c = true →
      (s.channel (masterOf c)).run = .stopped →
      exec (.stateRead tag 5 (enc c.val)) s =
        .next (s.withReply 3 tag .done
        [(s.channel (masterOf c)).cfg.binding.words.1, (s.channel (masterOf c)).cfg.binding.words.2, enc (s.channel (masterOf c)).cfg.clock.ctorIdx,
         enc ((s.channel (masterOf c)).cfg.binding.mode true).ctorIdx, 0, 0, 0, 0]))
  ∧ (∀ (tag : Byte) (c : ChanId) (x : CountRun) (s : State),
      s.active = true →
      s.isSlave c = false →
      (s.channel c).run = .counting x →
      x.count < 65536 →
      x.compare < 65536 →
      x.capture < 65536 →
      exec (.stateRead tag 5 (enc c.val)) s =
        .next (s.withReply 3 tag .done
        [(s.channel c).cfg.binding.words.1, (s.channel c).cfg.binding.words.2, enc (s.channel c).cfg.clock.ctorIdx,
         enc ((s.channel c).cfg.binding.mode false).ctorIdx, 1, enc x.count, enc x.compare, enc x.capture]))
  ∧ (∀ (tag : Byte) (c : ChanId) (x : CaptureRun) (s : State),
      s.active = true →
      s.isSlave c = false →
      (s.channel c).run = .capturing x →
      x.count < 65536 →
      x.stallCount < 65536 →
      x.capture < 65536 →
      exec (.stateRead tag 5 (enc c.val)) s =
        .next (s.withReply 3 tag .done
        [(s.channel c).cfg.binding.words.1, (s.channel c).cfg.binding.words.2, enc (s.channel c).cfg.clock.ctorIdx,
         enc ((s.channel c).cfg.binding.mode false).ctorIdx, 1, enc x.count, enc x.stallCount, enc x.capture]))
  ∧ (∀ (tag ct : Byte) (c : Call) (s : State),
      s.active = true →
      s.findCall ct = some c →
      (∀ i ∈ c.items, i.gap.getD 0 % 100000 = 0 ∧ i.gap.getD 0 / 100000 < 65536) →
      exec (.stateRead tag 7 (ct.setWidth 16)) s =
        .next (s.withReply 3 tag .done
        ([enc c.cls.ctorIdx, enc c.origin.ctorIdx, zoneSet (c.items.map ProgressItem.zone), encOpt c.clip,
          encOpt (c.block.map (·.val)), encOpt (c.pattern.map (·.val)), encOpt c.level, enc c.repeats, enc c.gap, c.arrival,
          enc c.items.length] ++ c.items.flatMap fun i =>
            [enc ((i.zone.val + 1) * 2 ^ 12 + i.remaining * 2 ^ 8 + i.status.ctorIdx), enc (i.gap.getD 0 / 100000)])))
  ∧ (∀ (tag : Byte) (w : Word) (s : State),
      s.active = true →
      256 ≤ w.toNat →
      exec (.stateRead tag 7 w) s = .next (s.withReply 3 tag .refusedRange [2]))

/-- BLOCK_WRITE (R31) with the full transfers it starts, at ended ones too (R194; that none starts at a position told away is the model's reading, log entry 25, and
that only enabled positions count its choice, log entry 44), and CONFIG_LOCK (R30). -/
def Obligations.BlockWritesAndTheLock : Prop :=
  (∀ (tag : Byte) (k : BlockId) (row : Fin 2) (raster : BitVec 3) (cs : Vector SignChar 24) (s : State),
      s.active = true →
      ∃ t, exec (.blockWrite tag (enc (row.val * 256 + k.val) :: cs.toList.map (·.payloadWord raster))) s = .next t
      ∧ replied t 2 tag .done [] ∧ (∀ b, b ≠ k → t.signBlock b = s.signBlock b)
      ∧ { t.tables with blocks := s.tables.blocks } = s.tables
      ∧ (t.signBlock k).raster = (if row = 0 then raster else (s.signBlock k).raster)
      ∧ (∀ j : Fin 48, (t.signBlock k).chars[j.val] =
          if j.val / 24 = row.val then cs[j.val % 24]'(Nat.mod_lt _ (by decide)) else (s.signBlock k).chars[j.val])
      ∧ t.calls.queue = s.calls.queue ∧ t.calls.presenting = s.calls.presenting ∧ t.calls.targets = s.calls.targets
      ∧ (∀ z n, s.target z = some k → n ∈ s.positionsOf .sign z → (s.transfer n).away = false →
          t.transfer n = { s.transfer n with status := .running, target := some k, next := none, rasterOnly := false,
                                             errors := 0, carried := none, again := none })
      ∧ { t with calls := s.calls, unit := s.unit } = s)
  ∧ (∀ (tag : Byte) (s : State),
      s.active = true →
      exec (.configLock tag []) s =
        .next ((s.modUnit fun u => { u with lock := true }).withReply 4 tag .done []))

/-- RESTART (R35, R63, R75, R94, R114, R131, R152, R172, R195; a warning time of 0 by log entry 23). -/
def Obligations.RestartState : Prop :=
  (∀ (src : Source) (tag : Byte) (s : State),
      s.active = true →
      ∃ t, exec (.restart src tag []) s = .next t
      ∧ t.unit.reply = (if src = .own then some ⟨5, tag, .done, []⟩ else none)
      ∧ t.tables = s.tables ∧ t.trunk = s.trunk ∧ t.pins = s.pins ∧ (∀ e ∈ t.unit.events, e.stamp = s.trunk.cycle)
      ∧ (∀ b, (t.branch b).burst = none ∧ (t.branch b).previous = none ∧ (t.branch b).held = false
          ∧ (t.branch b).checkRun = 0
          ∧ (t.branch b).state = if (s.branch b).state = .burst ∧ (s.branch b).burst.isSome = true then .idle
              else (if (s.branch b).state = .burst then .idle else (s.branch b).state))
      ∧ (∀ n, t.position n = ⟨(s.position n).cfg, .unknown, 0, none, none, none⟩)
      ∧ (∀ i, t.slot i = ⟨(s.slot i).entry, none, false, none⟩)
      ∧ t.player.state = .idle ∧ t.player.timer = none
      ∧ (∀ r, (t.ramp r).state.isActive = false ∧ (t.ramp r).grace = none ∧ (t.ramp r).timer = none
          ∧ t.account.find (driveClaimant r) = none)
      ∧ (∀ d, (t.door d).holdsUsed = 0 ∧ (t.door d).retriesUsed = 0)
      ∧ (∀ c ∈ t.calls.queue, c.origin = .internal)
      ∧ ∀ z, ((s.zone z).state ≠ .preAlarm → (t.zone z).state = (s.zone z).state)
          ∧ ((t.zone z).state ≠ .preAlarm → (t.zone z).window = none))
  ∧ (∀ (src : Source) (tag : Byte) (z : ZoneId) (s : State),
      s.active = true →
      (s.zone z).state = .preAlarm →
      ∃ t, exec (.restart src tag []) s = .next t
      ∧ (s.inputActive (.detector z) = false → (t.zone z).state = .normal
          ∧ s.posted t .zoneState (z.val + 1) (twoPart 1 2))
      ∧ (s.inputActive (.detector z) = true → s.chanOf (.zoneDetector z) = none ∨ 2 ≤ (s.zone z).cfg.threshold →
          (∀ c k, s.chanOf (.zoneDetector z) = some c → (s.channel c).run = .counting k → k.up = true) →
          (t.zone z).state = .preAlarm ∧ (t.zone z).window = some ((s.zone z).cfg.window * 1000)))
  ∧ (∀ (src : Source) (tag : Byte) (z : ZoneId) (c : ChanId) (k : CountRun) (s : State),
      s.active = true →
      (s.zone z).state = .preAlarm →
      s.inputActive (.detector z) = true →
      s.chanOf (.zoneDetector z) = some c →
      (s.channel c).run = .counting k →
      k.up = true →
      ∃ t, exec (.restart src tag []) s = .next t
      ∧ if (s.zone z).cfg.threshold ≤ 1 then (t.zone z).state = .alarm ∧ (t.zone z).window = none
      else (t.channel c).run = .counting { k with count := 1, compare := (s.zone z).cfg.threshold, armed := true })
  ∧ (∀ (src : Source) (tag : Byte) (r : RampId) (s : State),
      s.active = true →
      ∃ t, exec (.restart src tag []) s = .next t
      ∧ (t.ramp r).lastToggle = (s.ramp r).lastToggle ∧ (t.ramp r).speed = (s.ramp r).speed
      ∧ (t.ramp r).cmdDisabled = (s.ramp r).cmdDisabled ∧ (t.ramp r).slowMark = false
      ∧ ((s.ramp r).state = .disabled ∨ (s.ramp r).state = .fault →
          (t.ramp r).state = (s.ramp r).state ∧ (t.ramp r).reason = (s.ramp r).reason)
      ∧ ((s.ramp r).state ≠ .disabled → (s.ramp r).state ≠ .fault →
          (t.ramp r).state = (s.derivedRamp r).1 ∧ (t.ramp r).reason = (s.derivedRamp r).2)
      ∧ ((t.ramp r).state ≠ (s.ramp r).state →
          s.posted t .rampState (r.val + 1) (twoPart (t.ramp r).state.ctorIdx (t.ramp r).reason.ctorIdx)))
  ∧ (∀ (src : Source) (tag : Byte) (d : DoorId) (s : State),
      s.active = true →
      (s.door d).state = .disabled →
      ∃ t, exec (.restart src tag []) s = .next t
      ∧ t.door d = { s.doorSet d .disabled (s.door d).reason none with retryPulse := (s.door d).retryPulse })
  ∧ (∀ (src : Source) (tag : Byte) (d : DoorId) (s : State),
      s.active = true →
      (s.door d).state ≠ .disabled →
      ∃ t, exec (.restart src tag []) s = .next t
      ∧ (s.closedLimit d = true → s.openLimit d = false → t.door d = s.doorSet d .closed .restart none
          ∧ t.noDoorClaim d)
      ∧ (s.closedLimit d = true → s.openLimit d = true → t.door d = s.doorSet d .fault .restart none
          ∧ t.noDoorClaim d)
      ∧ (s.closedLimit d = false → s.openLimit d = false →
          t.door d = s.doorSet d .closing .restart (some ((s.door d).cfg.travel * 1000)) ∧ t.noDoorClaim d)
      ∧ (s.closedLimit d = false → s.openLimit d = true → t.mustClose d = true → 0 < (s.door d).cfg.warning →
          t.door d = s.doorSet d .warning .restart (some ((s.door d).cfg.warning * 1000)))
      ∧ (s.closedLimit d = false → s.openLimit d = true → t.mustClose d = true → (s.door d).cfg.warning = 0 →
          if (s.door d).cfg.kind = .magnet then
            t.door d = s.doorSet d .closing .restart (some ((s.door d).cfg.travel * 1000)) ∧ t.noDoorClaim d
          else t.door d = s.doorSet d .releasing .restart (t.door d).timer
            ∧ ((s.pinOf (.doorRelease d)).isSome = true → t.functionStanding (.doorRelease d) ≠ .none))
      ∧ (s.closedLimit d = false → s.openLimit d = true → t.mustClose d = false →
          (s.door d).cfg.kind = .latch ∨ (s.claimLaw ∧ ∃ c ∈ s.account.granted, c.cls = .hold
            ∧ s.claimantOf (.doorHoldback d) = some c.claimant) →
          t.door d = s.doorSet d .opened .restart none)
      ∧ (s.closedLimit d = false → s.openLimit d = true → t.mustClose d = false → (s.door d).cfg.kind = .magnet →
          t.door d = s.doorSet d .reopening .restart (some 30000000) ∨ t.door d = s.doorSet d .opened .restart none
            ∨ t.door d = s.doorSet d .opened .limit none ∧ ∃ y, t.warning y ≠ 0)
      ∧ ((t.door d).reason = .restart → (t.door d).state ≠ (s.door d).state →
          s.posted t .doorState (d.val + 1) (twoPart (t.door d).state.ctorIdx 16)))

/-- SET_ALARM and EVACUATE (R125) with the whole fan-out of R128 (the ramps halted together, log entry 43; the enabled SIGN and
PA positions of the zone, log entry 44) and that of R129, the door-warning call (R149), preemption (R189), the display target
(R192) and the PLAY and STOP commands of the zone's PA positions (R187). -/
def Obligations.ZoneAlarms : Prop :=
  (∀ (src : Source) (tag : Byte) (z : ZoneId) (s : State),
      s.active = true →
      (s.zone z).state = .normal ∨ (s.zone z).state = .preAlarm ∨ (s.zone z).state = .isolated →
      ∃ t, exec (.setAlarm src tag (enc (z.val + 1))) s = .next t
      ∧ t.zone z = { s.zone z with state := .alarm, window := if (s.zone z).state = .preAlarm then none else (s.zone z).window }
      ∧ t.unit.reply = (if src = .own then some ⟨6, tag, .done, []⟩ else s.unit.reply) ∧ s.otherZonesKept t z
      ∧ s.postsFirst t .zoneState (z.val + 1) (twoPart 3 1) ∧ s.alarmFanOut t z
      ∧ (∀ r, (s.ramp r).cfg.enabled = true → (s.ramp r).cfg.zone = z → (t.ramp r).state.driven = false)
      ∧ ((s.zone z).cfg.autoClose = true → ∀ d, (s.door d).cfg.enabled = true → (s.door d).cfg.zone = z →
          (t.door d).state ≠ .opened ∧ (t.door d).state ≠ .reopening)
      ∧ (s.calls.queue.length < 16 → s.findCall (alarmTag z) = none →
          ∃ c ∈ t.calls.queue, c.tag = alarmTag z ∧ c.cls = .fire ∧ c.origin = .internal
            ∧ c.clip = (s.zone z).cfg.fireClip ∧ c.block = (s.zone z).cfg.fireBlock ∧ c.pattern = none
            ∧ c.level = some (s.zone z).cfg.alarmLevel ∧ c.repeats = 0 ∧ c.gap = 0
            ∧ c.items.map ProgressItem.zone = [z])
      ∧ (s.warningLaw → s.warning z = 0 → (s.zone z).cfg.configured = true → s.calls.queue.length < 15 →
          s.findCall (doorTag z) = none → ∀ d, s.alarmCloses z d → 0 < (s.door d).cfg.warning →
          ∃ c ∈ t.calls.queue, c.tag = doorTag z ∧ c.cls = .safety ∧ c.origin = .internal
            ∧ c.clip = (s.zone z).cfg.doorClip ∧ c.block = (s.zone z).cfg.doorBlock ∧ c.repeats = 0
            ∧ c.items.map ProgressItem.zone = [z]))
  ∧ (∀ (src : Source) (tag : Byte) (z : ZoneId) (s : State),
      s.active = true →
      (s.zone z).state = .normal ∨ (s.zone z).state = .preAlarm ∨ (s.zone z).state = .isolated →
      ∃ t, exec (.evacuate src tag (enc (z.val + 1))) s = .next t
      ∧ t.zone z = { s.zone z with state := .evacuate, window := if (s.zone z).state = .preAlarm then none else (s.zone z).window }
      ∧ t.unit.reply = (if src = .own then some ⟨6, tag, .done, []⟩ else s.unit.reply) ∧ s.otherZonesKept t z
      ∧ s.postsFirst t .zoneState (z.val + 1) (twoPart 4 1) ∧ s.alarmFanOut t z
      ∧ (∀ r, (s.ramp r).cfg.enabled = true → (s.ramp r).cfg.zone = z → (t.ramp r).state.driven = false)
      ∧ ((s.zone z).cfg.autoClose = true → ∀ d, (s.door d).cfg.enabled = true → (s.door d).cfg.zone = z →
          (t.door d).state ≠ .opened ∧ (t.door d).state ≠ .reopening)
      ∧ (s.calls.queue.length < 16 → s.findCall (alarmTag z) = none →
          ∃ c ∈ t.calls.queue, c.tag = alarmTag z ∧ c.cls = .evacuate ∧ c.origin = .internal
            ∧ c.clip = (s.zone z).cfg.evacClip ∧ c.block = (s.zone z).cfg.evacBlock ∧ c.pattern = none
            ∧ c.level = some (s.zone z).cfg.alarmLevel ∧ c.repeats = 0 ∧ c.gap = 0
            ∧ c.items.map ProgressItem.zone = [z])
      ∧ (s.warningLaw → s.warning z = 0 → (s.zone z).cfg.configured = true → s.calls.queue.length < 15 →
          s.findCall (doorTag z) = none → ∀ d, s.alarmCloses z d → 0 < (s.door d).cfg.warning →
          ∃ c ∈ t.calls.queue, c.tag = doorTag z ∧ c.cls = .safety ∧ c.origin = .internal
            ∧ c.clip = (s.zone z).cfg.doorClip ∧ c.block = (s.zone z).cfg.doorBlock ∧ c.repeats = 0
            ∧ c.items.map ProgressItem.zone = [z]))
  ∧ (∀ (src : Source) (tag : Byte) (z : ZoneId) (s : State),
      s.active = true →
      (s.zone z).state = .alarm →
      ∃ t, exec (.evacuate src tag (enc (z.val + 1))) s = .next t
      ∧ t.zone z = { s.zone z with state := .evacuate }
      ∧ t.unit.reply = (if src = .own then some ⟨6, tag, .done, []⟩ else s.unit.reply) ∧ s.otherZonesKept t z
      ∧ s.postsFirst t .zoneState (z.val + 1) (twoPart 4 1)
      ∧ s.otherDoorsKept t (fun _ => False) ∧ s.otherRampsKept t (fun _ => False) ∧ s.signsRefreshed t z
      ∧ (∀ c ∈ s.calls.queue, c.tag = alarmTag z → c.cls = .fire →
          ∃ x ∈ t.calls.queue, x.tag = alarmTag z ∧ x.cls = .evacuate)
      ∧ (s.queueLaw → ∀ c ∈ s.calls.queue, c.tag = alarmTag z → c.cls = .fire →
          t.calls.queue.map (fun x => (x.tag, x.arrival)) = s.calls.queue.map (fun x => (x.tag, x.arrival))
          ∧ ∃ x ∈ t.calls.queue, x.tag = alarmTag z ∧ x.cls = .evacuate ∧ x.clip = (s.zone z).cfg.evacClip
            ∧ x.block = (s.zone z).cfg.evacBlock ∧ x.level = some (s.zone z).cfg.alarmLevel))
  ∧ (∀ (src : Source) (tag : Byte) (z : ZoneId) (p : Presentation) (c : Call) (i : ProgressItem) (s : State),
      s.active = true →
      (s.zone z).state = .alarm →
      s.presenting z = some p →
      p.tag = alarmTag z →
      s.findCall (alarmTag z) = some c →
      c.cls = .fire →
      c.pattern = none →
      c.item z = some i →
      s.queueLaw →
      (∀ x ∈ s.calls.queue, x.cls.isAlarm = true → x.tag ≠ alarmTag z → x.item z = none) →
      ∃ t, exec (.evacuate src tag (enc (z.val + 1))) s = .next t
      ∧ s.alarmPresented t z (s.zone z).cfg.evacClip (s.zone z).cfg.evacBlock
      ∧ s.othersStopped t z (s.zone z).cfg.evacClip
      ∧ (t.findCall (alarmTag z)).bind (·.item z) = some { i with status := .presenting, gap := none })
  ∧ (∀ (src : Source) (tag : Byte) (z : ZoneId) (s : State),
      s.active = true →
      (s.zone z).state = .alarm →
      exec (.setAlarm src tag (enc (z.val + 1))) s =
        .next (if src = .own then s.withReply 6 tag .done [] else s))
  ∧ (∀ (src : Source) (tag : Byte) (z : ZoneId) (s : State),
      s.active = true →
      (s.zone z).state = .evacuate →
      exec (.evacuate src tag (enc (z.val + 1))) s =
        .next (if src = .own then s.withReply 6 tag .done [] else s))
  ∧ (∀ (src : Source) (tag : Byte) (z : ZoneId) (s : State),
      s.active = true →
      (s.zone z).state = .evacuate ∨ (s.zone z).state = .unused →
      exec (.setAlarm src tag (enc (z.val + 1))) s =
        .next (if src = .own then s.withReply 6 tag .refusedState [] else s))
  ∧ (∀ (src : Source) (tag : Byte) (z : ZoneId) (s : State),
      s.active = true →
      (s.zone z).state = .unused →
      exec (.evacuate src tag (enc (z.val + 1))) s =
        .next (if src = .own then s.withReply 6 tag .refusedState [] else s))
  ∧ (∀ (src : Source) (tag : Byte) (z : ZoneId) (p : Presentation) (c : Call) (i : ProgressItem) (s : State),
      s.active = true →
      (s.zone z).state = .normal ∨ (s.zone z).state = .preAlarm ∨ (s.zone z).state = .isolated →
      s.presenting z = some p →
      s.findCall p.tag = some c →
      c.item z = some i →
      p.tag.toNat < 240 →
      c.cls.isAlarm = false →
      s.queueLaw →
      s.calls.queue.length ≤ 7 →
      (∀ x ∈ s.calls.queue, x.cls.isAlarm = true → x.item z = none) →
      s.findCall (alarmTag z) = none →
      ∃ t, exec (.setAlarm src tag (enc (z.val + 1))) s = .next t
      ∧ s.alarmPresented t z (s.zone z).cfg.fireClip (s.zone z).cfg.fireBlock
      ∧ s.othersStopped t z (s.zone z).cfg.fireClip
      ∧ (t.findCall p.tag).bind (·.item z) = some { i with status := .waiting, gap := none })
  ∧ (∀ (src : Source) (tag : Byte) (z : ZoneId) (p : Presentation) (c : Call) (i : ProgressItem) (s : State),
      s.active = true →
      (s.zone z).state = .normal ∨ (s.zone z).state = .preAlarm ∨ (s.zone z).state = .isolated →
      s.presenting z = some p →
      s.findCall p.tag = some c →
      c.item z = some i →
      p.tag.toNat < 240 →
      c.cls.isAlarm = false →
      s.queueLaw →
      s.calls.queue.length ≤ 7 →
      (∀ x ∈ s.calls.queue, x.cls.isAlarm = true → x.item z = none) →
      s.findCall (alarmTag z) = none →
      ∃ t, exec (.evacuate src tag (enc (z.val + 1))) s = .next t
      ∧ s.alarmPresented t z (s.zone z).cfg.evacClip (s.zone z).cfg.evacBlock
      ∧ s.othersStopped t z (s.zone z).cfg.evacClip
      ∧ (t.findCall p.tag).bind (·.item z) = some { i with status := .waiting, gap := none })
  ∧ (∀ (src : Source) (tag : Byte) (z : ZoneId) (s : State),
      s.active = true →
      (s.zone z).state = .normal ∨ (s.zone z).state = .preAlarm ∨ (s.zone z).state = .isolated →
      s.presenting z = none →
      s.queueLaw →
      s.calls.queue.length ≤ 7 →
      (∀ x ∈ s.calls.queue, x.cls.isAlarm = true → x.item z = none) →
      s.findCall (alarmTag z) = none →
      ∃ t, exec (.setAlarm src tag (enc (z.val + 1))) s = .next t
      ∧ s.alarmPresented t z (s.zone z).cfg.fireClip (s.zone z).cfg.fireBlock)
  ∧ (∀ (src : Source) (tag : Byte) (z : ZoneId) (s : State),
      s.active = true →
      (s.zone z).state = .normal ∨ (s.zone z).state = .preAlarm ∨ (s.zone z).state = .isolated →
      s.presenting z = none →
      s.queueLaw →
      s.calls.queue.length ≤ 7 →
      (∀ x ∈ s.calls.queue, x.cls.isAlarm = true → x.item z = none) →
      s.findCall (alarmTag z) = none →
      ∃ t, exec (.evacuate src tag (enc (z.val + 1))) s = .next t
      ∧ s.alarmPresented t z (s.zone z).cfg.evacClip (s.zone z).cfg.evacBlock)

/-- CLEAR (R126, R130), ISOLATE and RESTORE (R127) and WINDOW_TIMER_EXPIRY (R120), at whatever time left and without effect when stopped (the model's choice, log entry 6). -/
def Obligations.ZoneMoves : Prop :=
  (∀ (src : Source) (tag : Byte) (z : ZoneId) (s : State),
      s.active = true →
      (s.zone z).state = .preAlarm ∨ (s.zone z).state = .alarm ∨ (s.zone z).state = .evacuate →
      s.sourceActive z = false →
      s.forbids (.zoneClear z) = none →
      ∃ t, exec (.clear src tag (enc (z.val + 1))) s = .next t
      ∧ t.zone z = { s.zone z with state := .normal, window := none }
      ∧ t.unit.reply = (if src = .own then some ⟨6, tag, .done, []⟩ else s.unit.reply) ∧ s.otherZonesKept t z
      ∧ s.postsFirst t .zoneState (z.val + 1) (twoPart 1 1) ∧ t.countOf (.zoneDetector z) = 0
      ∧ s.otherDoorsKept t (fun _ => False) ∧ s.otherRampsKept t (fun _ => False)
      ∧ (s.alarmed z = true → (∀ c ∈ t.calls.queue, c.tag ≠ alarmTag z) ∧ t.functionStanding (.zoneBeacon z) = .none)
      ∧ (s.alarmed z = false → t.calls = s.calls))
  ∧ (∀ (src : Source) (tag : Byte) (z : ZoneId) (s : State),
      s.active = true →
      s.sourceActive z = true ∨ (s.zone z).state = .normal ∨ (s.zone z).state = .isolated
          ∨ (s.zone z).state = .unused →
      exec (.clear src tag (enc (z.val + 1))) s =
        .next (if src = .own then s.withReply 6 tag .refusedState [] else s))
  ∧ (∀ (src : Source) (tag : Byte) (z : ZoneId) (k : PermitId) (s : State),
      s.active = true →
      (s.zone z).state = .preAlarm ∨ (s.zone z).state = .alarm ∨ (s.zone z).state = .evacuate →
      s.sourceActive z = false →
      s.forbids (.zoneClear z) = some k →
      exec (.clear src tag (enc (z.val + 1))) s =
        .next (if src = .own then s.withReply 6 tag .refusedPermit [enc k.val] else s))
  ∧ (∀ (src : Source) (tag : Byte) (z : ZoneId) (s : State),
      s.active = true →
      (s.zone z).state = .normal ∨ (s.zone z).state = .preAlarm →
      ∃ t, exec (.isolate src tag (enc (z.val + 1))) s = .next t
      ∧ t.zone z = { s.zone z with state := .isolated, window := none }
      ∧ t.unit.reply = (if src = .own then some ⟨6, tag, .done, []⟩ else s.unit.reply) ∧ s.otherZonesKept t z
      ∧ t.calls = s.calls
      ∧ s.postsFirst t .zoneState (z.val + 1) (twoPart 5 1) ∧ t.countOf (.zoneDetector z) = 0
      ∧ s.otherDoorsKept t (fun _ => False) ∧ s.otherRampsKept t (fun _ => False))
  ∧ (∀ (src : Source) (tag : Byte) (z : ZoneId) (s : State),
      s.active = true →
      (s.zone z).state = .alarm ∨ (s.zone z).state = .evacuate ∨ (s.zone z).state = .isolated
          ∨ (s.zone z).state = .unused →
      exec (.isolate src tag (enc (z.val + 1))) s =
        .next (if src = .own then s.withReply 6 tag .refusedState [] else s))
  ∧ (∀ (src : Source) (tag : Byte) (z : ZoneId) (s : State),
      s.active = true →
      (s.zone z).state = .isolated →
      ∃ t, exec (.restore src tag (enc (z.val + 1))) s = .next t
      ∧ t.zone z = { s.zone z with state := if s.sourceActive z then .alarm else .normal }
      ∧ t.unit.reply = (if src = .own then some ⟨6, tag, .done, []⟩ else s.unit.reply) ∧ s.otherZonesKept t z
      ∧ s.postsFirst t .zoneState (z.val + 1) (twoPart (if s.sourceActive z then 3 else 1) 1))
  ∧ (∀ (src : Source) (tag : Byte) (z : ZoneId) (s : State),
      s.active = true →
      (s.zone z).state = .normal ∨ (s.zone z).state = .preAlarm ∨ (s.zone z).state = .alarm
          ∨ (s.zone z).state = .evacuate ∨ (s.zone z).state = .unused →
      exec (.restore src tag (enc (z.val + 1))) s =
        .next (if src = .own then s.withReply 6 tag .refusedState [] else s))
  ∧ (∀ (z : ZoneId) (s : State),
      (s.zone z).window.isSome = true →
      (s.zone z).state = .preAlarm →
      ∃ t, exec (.windowTimerExpiry z) s = .next t
      ∧ t.zone z = { s.zone z with state := if s.inputActive (.detector z) then .alarm else .normal, window := none }
      ∧ s.otherZonesKept t z
      ∧ s.postsFirst t .zoneState (z.val + 1) (twoPart (if s.inputActive (.detector z) then 3 else 1) 0)
      ∧ (∀ c, s.chanOf (.zoneDetector z) = some c → ∀ k, (s.channel c).run = .counting k →
          (t.channel c).run = .counting { k with count := 0, armed := false }))
  ∧ (∀ (z : ZoneId) (s : State),
      (s.zone z).window = none ∨ (s.zone z).state ≠ .preAlarm →
      exec (.windowTimerExpiry z) s = .next s)

/-- What commands on objects leave as it was. -/
def Obligations.ObjectsKept : Prop :=
  (∀ (c : Instr) (s : State),
      c.onObjects = true →
      ∃ t, exec (c) s = .next t
      ∧ s.fieldKept t)
  ∧ (∀ (c : Instr) (d : DoorId) (s : State),
      c.door? = some d →
      ∃ t, exec (c) s = .next t
      ∧ s.otherDoorsKept t (· = d) ∧ s.otherRampsKept t (fun _ => False))
  ∧ (∀ (c : Instr) (r : RampId) (s : State),
      c.ramp? = some r →
      ∃ t, exec (c) s = .next t
      ∧ s.otherRampsKept t (· = r) ∧ s.otherDoorsKept t (fun _ => False) ∧ t.calls = s.calls ∧ t.player = s.player
      ∧ t.warnings = s.warnings)
  ∧ (∀ (c : Instr) (z : ZoneId) (s : State),
      c.zone? = some z →
      ∃ t, exec (c) s = .next t
      ∧ s.otherZonesKept t z)
  ∧ (∀ (c : Instr) (s : State),
      c.onCalls = true →
      ∃ t, exec (c) s = .next t
      ∧ s.otherDoorsKept t (fun _ => False) ∧ s.otherRampsKept t (fun _ => False))

/-- DOOR_CLOSE (R138 to R142). The pulse timer's clauses have no function on two pins, which every step keeps (PinAndBindingLawsKept). -/
def Obligations.DoorCloses : Prop :=
  (∀ (tag : Byte) (d : DoorId) (s : State),
      s.active = true →
      (s.door d).state = .opened ∨ (s.door d).state = .reopening →
      0 < (s.door d).cfg.warning →
      ∃ t, exec (.doorClose tag (enc (d.val + 1))) s = .next t
      ∧ t.door d = s.doorMoved d .warning .close (some ((s.door d).cfg.warning * 1000))
      ∧ replied t 7 tag .done [] ∧ s.postsFirst t .doorState (d.val + 1) (twoPart 2 4))
  ∧ (∀ (tag : Byte) (d : DoorId) (s : State),
      s.active = true →
      (s.door d).state = .opened ∨ (s.door d).state = .reopening →
      (s.door d).cfg.warning = 0 →
      (s.door d).cfg.kind = .magnet →
      ∃ t, exec (.doorClose tag (enc (d.val + 1))) s = .next t
      ∧ t.door d = s.doorMoved d .closing .timer (some ((s.door d).cfg.travel * 1000)) ∧ replied t 7 tag .done []
      ∧ t.noDoorClaim d ∧ s.postsFirst t .doorState (d.val + 1) (twoPart 2 4))
  ∧ (∀ (tag : Byte) (d : DoorId) (s : State),
      s.active = true →
      (s.door d).state = .opened ∨ (s.door d).state = .reopening →
      (s.door d).cfg.warning = 0 →
      (s.door d).cfg.kind = .latch →
      ∃ t, exec (.doorClose tag (enc (d.val + 1))) s = .next t
      ∧ (t.door d).state = .releasing ∧ (t.door d).reason = .timer ∧ (t.door d).retryPulse = false
      ∧ (t.door d).retriesUsed = (s.door d).retriesUsed ∧ (t.door d).holdsUsed = (s.door d).holdsUsed
      ∧ ((s.pinOf (.doorRelease d)).isSome = true → t.functionStanding (.doorRelease d) ≠ .none)
      ∧ ((t.door d).timer = none ∨ (t.door d).timer = some ((s.door d).cfg.pulse * 1000))
      ∧ (s.pinLaw → s.functionStanding (.doorRelease d) = .none →
          ((t.door d).timer.isSome = true ↔ t.functionGranted (.doorRelease d) = true)) ∧ replied t 7 tag .done []
      ∧ s.postsFirst t .doorState (d.val + 1) (twoPart 2 4))
  ∧ (∀ (tag : Byte) (d : DoorId) (s : State),
      s.active = true →
      (s.door d).state = .ajar ∨ (s.door d).state = .obstructed →
      (s.door d).cfg.kind = .magnet →
      ∃ t, exec (.doorClose tag (enc (d.val + 1))) s = .next t
      ∧ t.door d = s.doorMoved d .closing .close (some ((s.door d).cfg.travel * 1000)) ∧ replied t 7 tag .done []
      ∧ t.noDoorClaim d)
  ∧ (∀ (tag : Byte) (d : DoorId) (s : State),
      s.active = true →
      (s.door d).state = .ajar ∨ (s.door d).state = .obstructed →
      (s.door d).cfg.kind = .latch →
      ∃ t, exec (.doorClose tag (enc (d.val + 1))) s = .next t
      ∧ (t.door d).state = .releasing ∧ (t.door d).reason = .close ∧ (t.door d).retryPulse = false
      ∧ (t.door d).retriesUsed = (s.door d).retriesUsed ∧ (t.door d).holdsUsed = (s.door d).holdsUsed
      ∧ ((s.pinOf (.doorRelease d)).isSome = true → t.functionStanding (.doorRelease d) ≠ .none)
      ∧ ((t.door d).timer = none ∨ (t.door d).timer = some ((s.door d).cfg.pulse * 1000))
      ∧ (s.pinLaw → s.functionStanding (.doorRelease d) = .none →
          ((t.door d).timer.isSome = true ↔ t.functionGranted (.doorRelease d) = true)) ∧ replied t 7 tag .done [])
  ∧ (∀ (tag : Byte) (d : DoorId) (s : State),
      s.active = true →
      (s.door d).state = .warning ∨ (s.door d).state = .releasing ∨ (s.door d).state = .closing
          ∨ (s.door d).state = .crewHold ∨ (s.door d).state = .closed →
      exec (.doorClose tag (enc (d.val + 1))) s = .next (s.withReply 7 tag .done []))
  ∧ (∀ (tag : Byte) (d : DoorId) (s : State),
      s.active = true →
      (s.door d).state = .fault ∨ (s.door d).state = .disabled →
      exec (.doorClose tag (enc (d.val + 1))) s = .next (s.withReply 7 tag .refusedState []))

/-- DOOR_REOPEN (R146, R147). -/
def Obligations.DoorReopens : Prop :=
  (∀ (tag : Byte) (d : DoorId) (s : State),
      s.active = true →
      (s.door d).state = .closed ∨ (s.door d).state = .ajar ∨ (s.door d).state = .obstructed →
      s.alarmed (s.door d).cfg.zone = false →
      s.forbids (.doorReopen d) = none →
      (s.door d).cfg.kind = .latch →
      ∃ t, exec (.doorReopen tag (enc (d.val + 1))) s = .next t
      ∧ (if s.openLimit d = true ∧ s.closedLimit d = false then t.door d = s.doorSet d .opened .limit none
        else t.door d = s.doorSet d .reopening .reopen (some 30000000)) ∧ replied t 7 tag .done []
            ∧ s.postsFirst t .doorState (d.val + 1) (twoPart 9 12))
  ∧ (∀ (tag : Byte) (d : DoorId) (s : State),
      s.active = true →
      (s.door d).state = .closed ∨ (s.door d).state = .ajar ∨ (s.door d).state = .obstructed →
      s.alarmed (s.door d).cfg.zone = false →
      s.forbids (.doorReopen d) = none →
      (s.door d).cfg.kind = .magnet →
      ∃ t, exec (.doorReopen tag (enc (d.val + 1))) s = .next t
      ∧ (s.openLimit d = false → t.door d = s.doorSet d .reopening .reopen (some 30000000))
      ∧ (t.door d = s.doorSet d .reopening .reopen (some 30000000) ∨ t.door d = s.doorSet d .opened .limit none)
      ∧ (s.openLimit d = true → s.functionStanding (.doorHoldback d) = .none →
          t.functionGranted (.doorHoldback d) = true → (t.door d).state = .opened)
      ∧ ((s.pinOf (.doorHoldback d)).isSome = true → t.functionStanding (.doorHoldback d) ≠ .none)
      ∧ replied t 7 tag .done [] ∧ s.postsFirst t .doorState (d.val + 1) (twoPart 9 12))
  ∧ (∀ (tag : Byte) (d : DoorId) (s : State),
      s.active = true →
      (s.door d).state = .opened ∨ (s.door d).state = .warning ∨ (s.door d).state = .releasing
          ∨ (s.door d).state = .closing ∨ (s.door d).state = .crewHold ∨ (s.door d).state = .reopening
              ∨ (s.door d).state = .fault ∨ (s.door d).state = .disabled ∨ s.alarmed (s.door d).cfg.zone = true →
      exec (.doorReopen tag (enc (d.val + 1))) s = .next (s.withReply 7 tag .refusedState []))
  ∧ (∀ (tag : Byte) (d : DoorId) (k : PermitId) (s : State),
      s.active = true →
      (s.door d).state = .closed ∨ (s.door d).state = .ajar ∨ (s.door d).state = .obstructed →
      s.alarmed (s.door d).cfg.zone = false →
      s.forbids (.doorReopen d) = some k →
      exec (.doorReopen tag (enc (d.val + 1))) s =
        .next (s.withReply 7 tag .refusedPermit [enc k.val]))

/-- DOOR_DISABLE, DOOR_ENABLE (R135, R136, R139) and DOOR_ACK_FAULT (R148). The reason ZONE of the WARNING that DOOR_ACK_FAULT
leads to is the model's choice (log entry 47). -/
def Obligations.DoorService : Prop :=
  (∀ (tag : Byte) (d : DoorId) (s : State),
      s.active = true →
      (s.door d).state ≠ .disabled →
      ∃ t, exec (.doorDisable tag (enc (d.val + 1))) s = .next t
      ∧ t.door d = s.doorSet d .disabled .command none ∧ replied t 7 tag .done [] ∧ t.noDoorClaim d)
  ∧ (∀ (tag : Byte) (d : DoorId) (s : State),
      s.active = true →
      (s.door d).state = .disabled →
      exec (.doorDisable tag (enc (d.val + 1))) s =
        .next ((s.modDoor d fun x => { x with reason := .command }).withReply 7 tag .done []))
  ∧ (∀ (tag : Byte) (d : DoorId) (s : State),
      s.active = true →
      (s.door d).state ≠ .disabled →
      exec (.doorEnable tag (enc (d.val + 1))) s = .next (s.withReply 7 tag .done []))
  ∧ (∀ (tag : Byte) (d : DoorId) (s : State),
      s.active = true →
      (s.door d).state = .disabled →
      (s.door d).cfg.enabled = false →
      exec (.doorEnable tag (enc (d.val + 1))) s = .next (s.withReply 7 tag .refusedState []))
  ∧ (∀ (tag : Byte) (d : DoorId) (s : State),
      s.active = true →
      (s.door d).state = .disabled →
      (s.door d).cfg.enabled = true →
      s.doorReady d = false →
      ∃ t, exec (.doorEnable tag (enc (d.val + 1))) s = .next t
      ∧ t.door d = { s.door d with reason := .pins } ∧ replied t 7 tag .done [])
  ∧ (∀ (tag : Byte) (d : DoorId) (s : State),
      s.active = true →
      (s.door d).state = .disabled →
      (s.door d).cfg.enabled = true →
      s.doorReady d = true →
      ∃ t, exec (.doorEnable tag (enc (d.val + 1))) s = .next t
      ∧ replied t 7 tag .done [] ∧ s.doorDerived t d)
  ∧ (∀ (tag : Byte) (d : DoorId) (s : State),
      s.active = true →
      (s.door d).state = .disabled →
      (s.door d).cfg.enabled = true →
      s.doorReady d = true →
      s.closedLimit d = false ∧ s.openLimit d = true →
      s.mustClose d = true →
      (s.door d).cfg.warning = 0 →
      ∃ t, exec (.doorEnable tag (enc (d.val + 1))) s = .next t
      ∧ s.postsFirst t .doorState (d.val + 1) (twoPart 2 5))
  ∧ (∀ (tag : Byte) (d : DoorId) (s : State),
      s.active = true →
      (s.door d).state = .fault →
      ∃ t, exec (.doorAckFault tag (enc (d.val + 1))) s = .next t
      ∧ replied t 7 tag .done [] ∧ s.doorDerived t d)
  ∧ (∀ (tag : Byte) (d : DoorId) (s : State),
      s.active = true →
      (s.door d).state = .fault →
      s.closedLimit d = false ∧ s.openLimit d = true →
      s.mustClose d = true →
      (s.door d).cfg.warning = 0 →
      ∃ t, exec (.doorAckFault tag (enc (d.val + 1))) s = .next t
      ∧ s.postsFirst t .doorState (d.val + 1) (twoPart 2 5))
  ∧ (∀ (tag : Byte) (d : DoorId) (s : State),
      s.active = true →
      (s.door d).state ≠ .fault →
      exec (.doorAckFault tag (enc (d.val + 1))) s = .next (s.withReply 7 tag .refusedState []))

/-- The six door timers (R139 to R147), at whatever time left (log entry 6), and the limits (R137, R147). The pulse timer's clauses have no function on two pins, which every step keeps (PinAndBindingLawsKept). -/
def Obligations.DoorTimers : Prop :=
  (∀ (d : DoorId) (s : State),
      (s.door d).state = .warning →
      (s.door d).timer.isSome = true →
      (s.door d).cfg.kind = .magnet →
      ∃ t, exec (.magnetWarningExpiry d) s = .next t
      ∧ t.door d = s.doorMoved d .closing .timer (some ((s.door d).cfg.travel * 1000)) ∧ t.noDoorClaim d)
  ∧ (∀ (d : DoorId) (s : State),
      (s.door d).timer = none ∨ (s.door d).state ≠ .warning ∨ (s.door d).cfg.kind = .latch →
      exec (.magnetWarningExpiry d) s = .next s)
  ∧ (∀ (d : DoorId) (s : State),
      (s.door d).state = .warning →
      (s.door d).timer.isSome = true →
      (s.door d).cfg.kind = .latch →
      ∃ t, exec (.latchWarningExpiry d) s = .next t
      ∧ (t.door d).state = .releasing ∧ (t.door d).reason = .timer ∧ (t.door d).retryPulse = false
      ∧ (t.door d).retriesUsed = (s.door d).retriesUsed ∧ (t.door d).holdsUsed = (s.door d).holdsUsed
      ∧ ((s.pinOf (.doorRelease d)).isSome = true → t.functionStanding (.doorRelease d) ≠ .none)
      ∧ ((t.door d).timer = none ∨ (t.door d).timer = some ((s.door d).cfg.pulse * 1000))
      ∧ (s.pinLaw → s.functionStanding (.doorRelease d) = .none →
          ((t.door d).timer.isSome = true ↔ t.functionGranted (.doorRelease d) = true)))
  ∧ (∀ (d : DoorId) (s : State),
      (s.door d).timer = none ∨ (s.door d).state ≠ .warning ∨ (s.door d).cfg.kind = .magnet →
      exec (.latchWarningExpiry d) s = .next s)
  ∧ (∀ (d : DoorId) (s : State),
      (s.door d).state = .releasing →
      (s.door d).timer.isSome = true →
      ∃ t, exec (.releasePulseExpiry d) s = .next t
      ∧ (if (s.door d).holdRequest then
          t.door d = { s.door d with state := .crewHold, reason := .hold, timer := some ((s.door d).cfg.holdTime * 1000000),
                                     holdsUsed := (s.door d).holdsUsed + 1, holdRequest := false, retryPulse := false }
        else
          t.door d = { s.door d with state := .closing, reason := if (s.door d).retryPulse then .retry else .timer,
                                     timer := some ((s.door d).cfg.travel * 1000), retryPulse := false })
                                         ∧ t.noDoorClaim d)
  ∧ (∀ (d : DoorId) (s : State),
      (s.door d).timer = none ∨ (s.door d).state ≠ .releasing →
      exec (.releasePulseExpiry d) s = .next s)
  ∧ (∀ (d : DoorId) (s : State),
      (s.door d).state = .closing →
      (s.door d).timer.isSome = true →
      (s.door d).cfg.kind = .magnet ∨ (s.door d).cfg.retries ≤ (s.door d).retriesUsed →
      ∃ t, exec (.travelTimerExpiry d) s = .next t
      ∧ t.door d = s.doorMoved d .obstructed .travel none ∧ t.noDoorClaim d)
  ∧ (∀ (d : DoorId) (s : State),
      (s.door d).state = .closing →
      (s.door d).timer.isSome = true →
      (s.door d).cfg.kind = .latch →
      (s.door d).retriesUsed < (s.door d).cfg.retries →
      s.functionStanding (.doorRelease d) = .none →
      ∃ t, exec (.travelTimerExpiry d) s = .next t
      ∧ (t.door d).state = .releasing ∧ (t.door d).reason = .retry ∧ (t.door d).retryPulse = true
      ∧ (t.door d).retriesUsed = (s.door d).retriesUsed + 1 ∧ (t.door d).holdsUsed = (s.door d).holdsUsed
      ∧ ((s.pinOf (.doorRelease d)).isSome = true → t.functionStanding (.doorRelease d) ≠ .none)
      ∧ ((t.door d).timer = none ∨ (t.door d).timer = some ((s.door d).cfg.pulse * 1000))
      ∧ (s.pinLaw → s.functionStanding (.doorRelease d) = .none →
          ((t.door d).timer.isSome = true ↔ t.functionGranted (.doorRelease d) = true)))
  ∧ (∀ (d : DoorId) (s : State),
      (s.door d).timer = none ∨ (s.door d).state ≠ .closing →
      exec (.travelTimerExpiry d) s = .next s)
  ∧ (∀ (d : DoorId) (s : State),
      (s.door d).state = .crewHold →
      (s.door d).timer.isSome = true →
      s.closedLimit d = true ∧ s.openLimit d = false →
      ∃ t, exec (.crewHoldExpiry d) s = .next t
      ∧ t.door d = s.doorSet d .closed .holdEnd none ∧ t.noDoorClaim d)
  ∧ (∀ (d : DoorId) (s : State),
      (s.door d).state = .crewHold →
      (s.door d).timer.isSome = true →
      s.closedLimit d = false ∨ s.openLimit d = true →
      0 < (s.door d).cfg.warning →
      ∃ t, exec (.crewHoldExpiry d) s = .next t
      ∧ t.door d = s.doorMoved d .warning .holdEnd (some ((s.door d).cfg.warning * 1000))
      ∧ s.postsFirst t .doorState (d.val + 1) (twoPart 2 10))
  ∧ (∀ (d : DoorId) (s : State),
      (s.door d).state = .crewHold →
      (s.door d).timer.isSome = true →
      s.closedLimit d = false ∨ s.openLimit d = true →
      (s.door d).cfg.warning = 0 →
      (s.door d).cfg.kind = .magnet →
      ∃ t, exec (.crewHoldExpiry d) s = .next t
      ∧ t.door d = s.doorMoved d .closing .timer (some ((s.door d).cfg.travel * 1000)) ∧ t.noDoorClaim d
      ∧ s.postsFirst t .doorState (d.val + 1) (twoPart 2 10))
  ∧ (∀ (d : DoorId) (s : State),
      (s.door d).state = .crewHold →
      (s.door d).timer.isSome = true →
      s.closedLimit d = false ∨ s.openLimit d = true →
      (s.door d).cfg.warning = 0 →
      (s.door d).cfg.kind = .latch →
      ∃ t, exec (.crewHoldExpiry d) s = .next t
      ∧ (t.door d).state = .releasing ∧ (t.door d).reason = .timer ∧ (t.door d).retryPulse = false
      ∧ (t.door d).retriesUsed = (s.door d).retriesUsed ∧ (t.door d).holdsUsed = (s.door d).holdsUsed
      ∧ ((s.pinOf (.doorRelease d)).isSome = true → t.functionStanding (.doorRelease d) ≠ .none)
      ∧ ((t.door d).timer = none ∨ (t.door d).timer = some ((s.door d).cfg.pulse * 1000))
      ∧ (s.pinLaw → s.functionStanding (.doorRelease d) = .none →
          ((t.door d).timer.isSome = true ↔ t.functionGranted (.doorRelease d) = true))
      ∧ s.postsFirst t .doorState (d.val + 1) (twoPart 2 10))
  ∧ (∀ (d : DoorId) (s : State),
      (s.door d).timer = none ∨ (s.door d).state ≠ .crewHold →
      exec (.crewHoldExpiry d) s = .next s)
  ∧ (∀ (d : DoorId) (s : State),
      (s.door d).state = .reopening →
      (s.door d).timer.isSome = true →
      ∃ t, exec (.reopenTimerExpiry d) s = .next t
      ∧ (if s.closedLimit d then t.door d = s.doorSet d .closed .reopenTimeout none
        else t.door d = s.doorMoved d .closing .reopenTimeout (some ((s.door d).cfg.travel * 1000)))
            ∧ t.noDoorClaim d)
  ∧ (∀ (d : DoorId) (s : State),
      (s.door d).timer = none ∨ (s.door d).state ≠ .reopening →
      exec (.reopenTimerExpiry d) s = .next s)
  ∧ (∀ (p : PinId) (d : DoorId) (level : Bool) (s : State),
      (s.pin p).cfg.filter = 0 →
      level ≠ (s.pin p).raw →
      level ≠ (s.pin p).filtered →
      (s.pin p).cfg.function = .doorClosedLimit d ∨ (s.pin p).cfg.function = .doorOpenLimit d →
      (s.door d).state ≠ .disabled →
      (s.door d).state ≠ .fault →
      (s.levelTaken p level).closedLimit d = true →
      (s.levelTaken p level).openLimit d = true →
      ∃ t, exec (.rawInputChange p level) s = .next t
      ∧ t.door d = { s.doorMoved d .fault .limits none with holdRequest := false } ∧ t.noDoorClaim d)
  ∧ (∀ (p : PinId) (d : DoorId) (level : Bool) (s : State),
      (s.pin p).cfg.filter = 0 →
      level ≠ (s.pin p).raw →
      level ≠ (s.pin p).filtered →
      s.pinOf (.doorClosedLimit d) = some p →
      (s.pin p).cfg.polarity.apply level = true →
      (s.levelTaken p level).openLimit d = false →
      (s.door d).state = .opened ∨ (s.door d).state = .warning ∨ (s.door d).state = .releasing
          ∨ (s.door d).state = .closing ∨ (s.door d).state = .obstructed ∨ (s.door d).state = .ajar
              ∨ (s.door d).state = .reopening
                  ∧ ((s.door d).cfg.kind = .latch ∨ s.functionGranted (.doorHoldback d) = false) →
      ∃ t, exec (.rawInputChange p level) s = .next t
      ∧ t.door d = s.doorSet d .closed .limit none ∧ t.noDoorClaim d)
  ∧ (∀ (p : PinId) (d : DoorId) (level : Bool) (s : State),
      (s.pin p).cfg.filter = 0 →
      level ≠ (s.pin p).raw →
      level ≠ (s.pin p).filtered →
      s.pinOf (.doorClosedLimit d) = some p →
      (s.pin p).cfg.polarity.apply level = false →
      (s.door d).state = .closed →
      ∃ t, exec (.rawInputChange p level) s = .next t
      ∧ t.door d = s.doorMoved d .ajar .limit none)
  ∧ (∀ (p : PinId) (d : DoorId) (level : Bool) (s : State),
      (s.pin p).cfg.filter = 0 →
      level ≠ (s.pin p).raw →
      level ≠ (s.pin p).filtered →
      s.pinOf (.doorOpenLimit d) = some p →
      (s.pin p).cfg.polarity.apply level = false →
      (s.levelTaken p level).closedLimit d = false ∨ (s.levelTaken p level).openLimit d = false →
      (s.door d).state = .opened →
      ∃ t, exec (.rawInputChange p level) s = .next t
      ∧ t.door d = s.doorMoved d .closing .limit (some ((s.door d).cfg.travel * 1000)) ∧ t.noDoorClaim d)
  ∧ (∀ (p : PinId) (d : DoorId) (level : Bool) (s : State),
      (s.pin p).cfg.filter = 0 →
      level ≠ (s.pin p).raw →
      level ≠ (s.pin p).filtered →
      s.pinOf (.doorOpenLimit d) = some p →
      (s.pin p).cfg.polarity.apply level = true →
      (s.levelTaken p level).closedLimit d = false →
      (s.door d).state = .reopening →
      (s.door d).cfg.kind = .latch ∨ s.functionGranted (.doorHoldback d) = true →
      ∃ t, exec (.rawInputChange p level) s = .next t
      ∧ t.door d = s.doorMoved d .opened .limit none)

/-- RAMP_STOP (R168) and RAMP_DISABLE (R158; the reason of a ramp DISABLED already is a choice of the model, log entry 39). -/
def Obligations.RampStops : Prop :=
  (∀ (tag : Byte) (r : RampId) (s : State),
      s.active = true →
      (s.ramp r).state.isActive = true →
      ∃ t, exec (.rampStop tag (enc (r.val + 1))) s = .next t
      ∧ t.ramp r = s.rampStill r .held .stopped ∧ replied t 8 tag .done [] ∧ t.account.find (driveClaimant r) = none
      ∧ t.valveDirection r = none)
  ∧ (∀ (tag : Byte) (r : RampId) (s : State),
      s.active = true →
      (s.ramp r).state.isActive = false →
      exec (.rampStop tag (enc (r.val + 1))) s = .next (s.withReply 8 tag .done []))
  ∧ (∀ (tag : Byte) (r : RampId) (s : State),
      s.active = true →
      (s.ramp r).state ≠ .disabled →
      ∃ t, exec (.rampDisable tag (enc (r.val + 1))) s = .next t
      ∧ t.ramp r = { s.rampStill r .disabled .disabled with cmdDisabled := true, lockWanted := false }
      ∧ replied t 8 tag .done [] ∧ t.account.find (driveClaimant r) = none
      ∧ t.functionStanding (.rampBeacon r) = .none)
  ∧ (∀ (tag : Byte) (r : RampId) (s : State),
      s.active = true →
      (s.ramp r).state = .disabled →
      exec (.rampDisable tag (enc (r.val + 1))) s =
        .next ((s.modRamp r fun x => { x with cmdDisabled := true, reason := .disabled }).withReply 8 tag .done []))

/-- RAMP_ENABLE (R157, R158) and RAMP_ACK_FAULT (R169). -/
def Obligations.RampEnables : Prop :=
  (∀ (tag : Byte) (r : RampId) (s : State),
      s.active = true →
      (s.ramp r).state ≠ .disabled →
      exec (.rampEnable tag (enc (r.val + 1))) s = .next (s.withReply 8 tag .done []))
  ∧ (∀ (tag : Byte) (r : RampId) (s : State),
      s.active = true →
      (s.ramp r).state = .disabled →
      (s.ramp r).cfg.enabled = false →
      exec (.rampEnable tag (enc (r.val + 1))) s = .next (s.withReply 8 tag .refusedState []))
  ∧ (∀ (tag : Byte) (r : RampId) (s : State),
      s.active = true →
      (s.ramp r).state = .disabled →
      (s.ramp r).cfg.enabled = true →
      s.rampReady r = false →
      exec (.rampEnable tag (enc (r.val + 1))) s =
        .next ((s.modRamp r fun x => { x with cmdDisabled := false, reason := .pins }).withReply 8 tag .done []))
  ∧ (∀ (tag : Byte) (r : RampId) (s : State),
      s.active = true →
      (s.ramp r).state = .disabled →
      (s.ramp r).cfg.enabled = true →
      s.rampReady r = true →
      ∃ t, exec (.rampEnable tag (enc (r.val + 1))) s = .next t
      ∧ t.ramp r = { s.ramp r with state := (s.derivedRamp r).1, reason := (s.derivedRamp r).2, grace := none, timer := none,
                                   slowMark := false, cmdDisabled := false,
                                   lockWanted := if (s.derivedRamp r).1 = .stowed then false else (s.ramp r).lockWanted }
      ∧ replied t 8 tag .done []
      ∧ ((s.pinOf (.rampBeacon r)).isSome = true →
          (t.functionStanding (.rampBeacon r) = .none ↔ (s.derivedRamp r).1.quiet = true)))
  ∧ (∀ (tag : Byte) (r : RampId) (s : State),
      s.active = true →
      (s.ramp r).state = .fault →
      ∃ t, exec (.rampAckFault tag (enc (r.val + 1))) s = .next t
      ∧ t.ramp r = { s.ramp r with state := (s.derivedRamp r).1, reason := (s.derivedRamp r).2, grace := none, timer := none,
                                   slowMark := false, cmdDisabled := (s.ramp r).cmdDisabled,
                                   lockWanted := if (s.derivedRamp r).1 = .stowed then false else (s.ramp r).lockWanted }
      ∧ replied t 8 tag .done []
      ∧ ((s.pinOf (.rampBeacon r)).isSome = true →
          (t.functionStanding (.rampBeacon r) = .none ↔ (s.derivedRamp r).1.quiet = true)))
  ∧ (∀ (tag : Byte) (r : RampId) (s : State),
      s.active = true →
      (s.ramp r).state ≠ .fault →
      exec (.rampAckFault tag (enc (r.val + 1))) s = .next (s.withReply 8 tag .refusedState []))

/-- The three ramp timers (R160, R163, R166), at whatever time left (log entry 6), and the limits (R163, R166, R167). LANDED or STOWED at once on a limit that stands active, and FAULT in AWAITING_LOAD and UNLOCKING, are the model's reading (log entry 20). -/
def Obligations.RampTimers : Prop :=
  (∀ (r : RampId) (s : State),
      (s.ramp r).grace.isSome = true →
      (s.ramp r).state.isActive = true →
      ∃ t, exec (.runGraceExpiry r) s = .next t
      ∧ t.ramp r = s.rampStill r .held .runGrace ∧ t.account.find (driveClaimant r) = none)
  ∧ (∀ (r : RampId) (s : State),
      (s.ramp r).grace = none ∨ (s.ramp r).state.isActive = false →
      exec (.runGraceExpiry r) s = .next s)
  ∧ (∀ (r : RampId) (s : State),
      (s.ramp r).timer.isSome = true →
      (s.ramp r).state = .unlocking →
      s.lockedLimit r = true →
      ∃ t, exec (.unlockTimerExpiry r) s = .next t
      ∧ t.ramp r = s.rampStill r .fault .unlockTimeout ∧ t.account.find (driveClaimant r) = none)
  ∧ (∀ (r : RampId) (s : State),
      (s.ramp r).timer.isSome = true →
      (s.ramp r).state = .unlocking →
      s.lockedLimit r = false →
      ∃ t, exec (.unlockTimerExpiry r) s = .next t
      ∧ ((t.ramp r).state = .lowering ∧ (t.ramp r).reason = .none ∧ (t.ramp r).lockWanted = true
        ∨ (t.ramp r).state = .landed ∧ (t.ramp r).reason = .limit ∧ s.landLimit r = true
        ∨ (t.ramp r).state = .held ∧ (t.ramp r).reason = .permit) ∧ (t.ramp r).timer = none
      ∧ s.postsFirst t .rampState (r.val + 1) (twoPart 4 0))
  ∧ (∀ (r : RampId) (s : State),
      (s.ramp r).timer = none ∨ (s.ramp r).state ≠ .unlocking →
      exec (.unlockTimerExpiry r) s = .next s)
  ∧ (∀ (r : RampId) (s : State),
      (s.ramp r).timer.isSome = true →
      (s.ramp r).state = .locking →
      ∃ t, exec (.lockTimerExpiry r) s = .next t
      ∧ (if s.lockedLimit r then t.ramp r = s.rampStill r .stowed .limit ∧ t.functionStanding (.rampBeacon r) = .none
        else t.ramp r = s.rampStill r .fault .lockTimeout) ∧ t.account.find (driveClaimant r) = none)
  ∧ (∀ (r : RampId) (s : State),
      (s.ramp r).timer = none ∨ (s.ramp r).state ≠ .locking →
      exec (.lockTimerExpiry r) s = .next s)
  ∧ (∀ (p : PinId) (r : RampId) (level : Bool) (s : State),
      (s.pin p).cfg.filter = 0 →
      level ≠ (s.pin p).raw →
      level ≠ (s.pin p).filtered →
      (s.pin p).cfg.function = .rampStowLimit r ∨ (s.pin p).cfg.function = .rampLandLimit r →
      s.pinUnwatched p →
      (s.ramp r).state ≠ .disabled →
      (s.ramp r).state ≠ .fault →
      (s.levelTaken p level).stowLimit r = true →
      (s.levelTaken p level).landLimit r = true →
      ∃ t, exec (.rawInputChange p level) s = .next t
      ∧ t.ramp r = { s.rampStill r .fault .limits with slowMark := (t.ramp r).slowMark }
      ∧ t.account.find (driveClaimant r) = none)
  ∧ (∀ (p : PinId) (r : RampId) (level : Bool) (s : State),
      (s.pin p).cfg.filter = 0 →
      level ≠ (s.pin p).raw →
      level ≠ (s.pin p).filtered →
      s.pinUnwatched p →
      (s.levelTaken p level).stowLimit r = false ∨ (s.levelTaken p level).landLimit r = false →
      (s.ramp r).state = .stowed ∧ (s.pin p).cfg.function = .rampStowLimit r
          ∧ (s.pin p).cfg.polarity.apply level = false
        ∨ (s.ramp r).state = .stowed ∧ (s.pin p).cfg.function = .rampLockedLimit r
            ∧ (s.pin p).cfg.polarity.apply level = false
        ∨ (s.ramp r).state = .landed ∧ (s.pin p).cfg.function = .rampLandLimit r
            ∧ (s.pin p).cfg.polarity.apply level = false
        ∨ (s.ramp r).state = .lowering ∧ (s.pin p).cfg.function = .rampStowLimit r
            ∧ (s.pin p).cfg.polarity.apply level = true
        ∨ (s.ramp r).state = .raising ∧ (s.pin p).cfg.function = .rampLandLimit r
            ∧ (s.pin p).cfg.polarity.apply level = true
        ∨ (s.ramp r).state = .locking ∧ (s.pin p).cfg.function = .rampStowLimit r
            ∧ (s.pin p).cfg.polarity.apply level = false →
      ∃ t, exec (.rawInputChange p level) s = .next t
      ∧ t.ramp r = { s.rampStill r .held .limit with slowMark := (t.ramp r).slowMark }
      ∧ t.account.find (driveClaimant r) = none
      ∧ ((s.pinOf (.rampBeacon r)).isSome = true → (s.ramp r).state.quiet = true →
          t.functionStanding (.rampBeacon r) ≠ .none))
  ∧ (∀ (p : PinId) (r : RampId) (level : Bool) (s : State),
      (s.pin p).cfg.filter = 0 →
      level ≠ (s.pin p).raw →
      level ≠ (s.pin p).filtered →
      s.pinUnwatched p →
      (s.levelTaken p level).stowLimit r = false ∨ (s.levelTaken p level).landLimit r = false →
      s.pinOf (.rampLandLimit r) = some p →
      (s.pin p).cfg.polarity.apply level = true →
      (s.ramp r).state = .lowering ∨ (s.ramp r).state = .held →
      ∃ t, exec (.rawInputChange p level) s = .next t
      ∧ t.ramp r = s.rampStill r .landed .limit ∧ t.account.find (driveClaimant r) = none
      ∧ t.functionStanding (.rampBeacon r) = .none)
  ∧ (∀ (p : PinId) (r : RampId) (level : Bool) (s : State),
      (s.pin p).cfg.filter = 0 →
      level ≠ (s.pin p).raw →
      level ≠ (s.pin p).filtered →
      s.pinUnwatched p →
      (s.levelTaken p level).stowLimit r = false ∨ (s.levelTaken p level).landLimit r = false →
      (s.ramp r).state = .locking ∧ s.pinOf (.rampLockedLimit r) = some p
          ∧ (s.pin p).cfg.polarity.apply level = true
        ∨ (s.ramp r).state = .held ∧ s.pinOf (.rampStowLimit r) = some p
            ∧ (s.pin p).cfg.polarity.apply level = true ∧ (s.ramp r).lockWanted = false ∧ s.lockedLimit r = true
        ∨ (s.ramp r).state = .held ∧ s.pinOf (.rampLockedLimit r) = some p
            ∧ (s.pin p).cfg.polarity.apply level = true ∧ (s.ramp r).lockWanted = false ∧ s.stowLimit r = true →
      ∃ t, exec (.rawInputChange p level) s = .next t
      ∧ t.ramp r = { s.rampStill r .stowed .limit with slowMark := (t.ramp r).slowMark }
      ∧ t.account.find (driveClaimant r) = none
      ∧ t.functionStanding (.rampBeacon r) = .none)
  ∧ (∀ (p : PinId) (r : RampId) (level : Bool) (s : State),
      (s.pin p).cfg.filter = 0 →
      level ≠ (s.pin p).raw →
      level ≠ (s.pin p).filtered →
      s.pinUnwatched p →
      (s.levelTaken p level).stowLimit r = false ∨ (s.levelTaken p level).landLimit r = false →
      (s.pin p).cfg.function = .rampStowLimit r →
      (s.pin p).cfg.polarity.apply level = true →
      (s.ramp r).state = .raising →
      ∃ t, exec (.rawInputChange p level) s = .next t
      ∧ (t.ramp r).lockWanted = false ∧ (t.ramp r).reason = .limit
      ∧ if s.lockedLimit r then (t.ramp r).state = .stowed
        else (t.ramp r).state = .locking ∧ (t.ramp r).timer = some ((s.ramp r).cfg.lockTime * 1000))
  ∧ (∀ (p : PinId) (r : RampId) (level : Bool) (s : State),
      (s.pin p).cfg.filter = 0 →
      level ≠ (s.pin p).raw →
      level ≠ (s.pin p).filtered →
      s.pinUnwatched p →
      (s.levelTaken p level).stowLimit r = false ∨ (s.levelTaken p level).landLimit r = false →
      s.pinOf (.rampLockedLimit r) = some p →
      (s.pin p).cfg.polarity.apply level = false →
      (s.ramp r).state = .unlocking →
      ∃ t, exec (.rawInputChange p level) s = .next t
      ∧ (t.ramp r).timer = none
      ∧ ((t.ramp r).state = .lowering ∧ (t.ramp r).reason = .none ∧ (t.ramp r).lockWanted = true
        ∨ (t.ramp r).state = .landed ∧ (t.ramp r).reason = .limit ∧ s.landLimit r = true
        ∨ (t.ramp r).state = .held ∧ (t.ramp r).reason = .permit))

/-- BRANCH_ENABLE, BRANCH_DISABLE (R42), RETURN_LINE_CONTENTION and the zones' fault flags (R59, R124; at whatever time of a burst, a choice of the model, log entry 35). -/
def Obligations.BranchCommands : Prop :=
  (∀ (tag : Byte) (b : BranchId) (s : State),
      s.active = true →
      (s.branch b).state = .disabled ∨ (s.branch b).state = .contended →
      (s.branch b).cfg.enable = true →
      exec (.branchEnable tag (enc b.val)) s =
        .next ((s.modBranch b fun x => { x with state := .idle, checkRun := 0, held := false, previous := none }).withReply 9 tag .done []))
  ∧ (∀ (tag : Byte) (b : BranchId) (s : State),
      s.active = true →
      (s.branch b).state = .disabled ∨ (s.branch b).state = .contended →
      (s.branch b).cfg.enable = false →
      exec (.branchEnable tag (enc b.val)) s = .next (s.withReply 9 tag .refusedState []))
  ∧ (∀ (tag : Byte) (b : BranchId) (s : State),
      s.active = true →
      (s.branch b).state = .idle ∨ (s.branch b).state = .burst →
      exec (.branchEnable tag (enc b.val)) s = .next (s.withReply 9 tag .done []))
  ∧ (∀ (tag : Byte) (b : BranchId) (s : State),
      s.active = true →
      (s.branch b).state ≠ .disabled →
      ∃ t, exec (.branchDisable tag (enc b.val)) s = .next t
      ∧ t.branch b = { s.branch b with state := .disabled, burst := none, previous := none, held := false, checkRun := 0,
                                       left := if (s.branch b).burst.isSome then none else (s.branch b).left }
      ∧ replied t 9 tag .done [] ∧ (∀ c, c ≠ b → t.branch c = s.branch c) ∧ t.slots = s.slots ∧ t.tables = s.tables
      ∧ t.zones = s.zones
      ∧ (∀ n, t.position n = if branchOf n = b ∧ (s.position n).cfg.enabled = true then
          { s.position n with presence := .unknown, missRun := 0 } else s.position n))
  ∧ (∀ (tag : Byte) (b : BranchId) (s : State),
      s.active = true →
      (s.branch b).state = .disabled →
      exec (.branchDisable tag (enc b.val)) s = .next (s.withReply 9 tag .done []))
  ∧ (∀ (b : BranchId) (s : State),
      (s.branch b).state = .idle ∨ (s.branch b).state = .burst →
      ∃ t, exec (.returnLineContention b) s = .next t
      ∧ t.branch b = { s.branch b with state := .contended, burst := none, previous := none, held := false,
                                       left := if (s.branch b).burst.isSome then none else (s.branch b).left }
      ∧ (∀ c, c ≠ b → t.branch c = s.branch c) ∧ t.slots = s.slots ∧ t.tables = s.tables
      ∧ (∀ n, t.position n = if branchOf n = b ∧ (s.position n).cfg.enabled = true then
          { s.position n with presence := .unknown, missRun := 0 } else s.position n) ∧ t.unit.reply = s.unit.reply
      ∧ (∀ z, t.zone z = s.faultRaised z ((s.positionsOf .sensor z).any fun n => branchOf n == b))
      ∧ s.postsFirst t .branchContended b.val (BitVec.ofNat 16 (s.branch b).state.ctorIdx))
  ∧ (∀ (b : BranchId) (s : State),
      (s.branch b).state = .disabled ∨ (s.branch b).state = .contended →
      exec (.returnLineContention b) s = .next s)

/-- BURST_END (R47, R48, R53 to R58, R70; log entry 21), the notices of nodes (R61) and what zones, PA nodes and signs take from
them (R123, R124, R187, R191, R194), and the outgoing stream (R51). An ERR of the burst that carries the header is passed over
(R194, log entry 25). -/
def Obligations.BurstEnds : Prop :=
  (∀ (b : BranchId) (x : BurstRecord) (ret : ReturnStream) (s : State),
      (s.branch b).state = .burst →
      (s.branch b).burst = some x →
      (s.branch b).held = false →
      ret = .garbled ∨ (∃ ws, ret = .words ws ∧ goodReturn x.entries.length ws = false) →
      ∃ t, exec (.burstEnd b ret) s = .next t
      ∧ t.branch b = s.branchEnded b x (min 255 ((s.branch b).checkRun + 1)) ∧ s.otherBranchesKept t b
      ∧ t.positions = s.positions ∧ t.slots = s.slots
      ∧ ((s.branch b).checkRun = 7 → s.postsFirst t .branchDegraded b.val 8))
  ∧ (∀ (b : BranchId) (x p : BurstRecord) (ws : List ChainWord) (s : State),
      (s.branch b).state = .burst →
      (s.branch b).burst = some x →
      (s.branch b).held = false →
      goodReturn x.entries.length ws = true →
      (s.branch b).previous = some p →
      (x.entries.map BurstEntry.place).Nodup →
      ∃ t, exec (.burstEnd b (.words ws)) s = .next t
      ∧ t.branch b = s.branchEnded b x 0 ∧ s.otherBranchesKept t b
      ∧ (∀ n, (∀ e ∈ x.entries, posIndex b e.place ≠ n) → t.position n = s.position n)
      ∧ ∀ y ∈ x.entries.zip ws,
          let n := posIndex b y.1.place
          let old := s.position n
          if p.entries.any (fun e => e.place == y.1.place && e.cls == y.1.cls) then
            match rightReply y.1.cls p.number y.2 with
            | some v =>
              if old.cfg.enabled = true ∧ old.cfg.cls = y.1.cls then
                t.position n = { old with presence := .present, missRun := 0, lastReply := some v }
                ∧ (y.1.cls = .general → ∀ i, s.slotOf n = some i →
                    t.slot i = { s.slot i with holding := some v, fresh := true })
              else t.position n = old
            | none => t.position n = { old with missRun := min 3 (old.missRun + 1),
                                                presence := if 2 ≤ old.missRun then .absent else old.presence }
          else t.position n = old)
  ∧ (∀ (b : BranchId) (x p : BurstRecord) (s : State),
      (s.branch b).state = .burst →
      (s.branch b).burst = some x →
      (s.branch b).held = false →
      (s.branch b).previous = some p →
      (x.entries.map BurstEntry.place).Nodup →
      ∃ t, exec (.burstEnd b .silent) s = .next t
      ∧ t.branch b = s.branchEnded b x (((s.branch b).checkRun)) ∧ s.otherBranchesKept t b ∧ t.slots = s.slots
      ∧ ∀ e ∈ x.entries,
          let n := posIndex b e.place
          let old := s.position n
          t.position n = if p.entries.any (fun y => y.place == e.place && y.cls == e.cls) then { old with missRun := min 3 (old.missRun + 1),
                                                                                                          presence := if 2 ≤ old.missRun then .absent else old.presence }
            else old)
  ∧ (∀ (b : BranchId) (x : BurstRecord) (ret : ReturnStream) (s : State),
      (s.branch b).state = .burst →
      (s.branch b).burst = some x →
      (s.branch b).previous = none →
      ret ≠ .garbled →
      ∃ t, exec (.burstEnd b ret) s = .next t
      ∧ (t.branch b).previous = some x ∧ s.otherBranchesKept t b ∧ t.slots = s.slots
      ∧ ∀ n, { t.position n with pendingWord := none, lastWord := none } = { s.position n with pendingWord := none, lastWord := none })
  ∧ (∀ (b : BranchId) (x : BurstRecord) (ret : ReturnStream) (s : State),
      (s.branch b).state = .burst →
      (s.branch b).burst = some x →
      (s.branch b).held = true →
      s.enabledPlaces b ≠ [] →
      ∃ t, exec (.burstEnd b ret) s = .next t
      ∧ (t.branch b).state = .burst ∧ (t.branch b).previous = some x ∧ (t.branch b).held = false
      ∧ (t.branch b).number = (s.branch b).number + 1 ∧ s.otherBranchesKept t b
      ∧ (t.branch b).burst.map (fun y => (y.number, y.rate, y.lead, y.gap, y.entries.map BurstEntry.place)) =
          some ((s.branch b).number + 1, (s.branch b).cfg.rate, (s.branch b).cfg.lead, (s.branch b).cfg.gap, s.enabledPlaces b)
      ∧ (t.branch b).left = (t.branch b).burst.map fun y => y.bitTimes * y.rate.bitTime)
  ∧ (∀ (b : BranchId) (x p : BurstRecord) (ws : List ChainWord) (s : State),
      (s.branch b).state = .burst →
      (s.branch b).burst = some x →
      goodReturn x.entries.length ws = true →
      (s.branch b).previous = some p →
      (x.entries.map BurstEntry.place).Nodup →
      ∃ t, exec (.burstEnd b (.words ws)) s = .next t
      ∧ (8 ≤ (s.branch b).checkRun → s.posted t .branchRecovered b.val (BitVec.ofNat 16 (s.branch b).checkRun))
      ∧ (∀ y ∈ x.entries.zip ws,
          let n := posIndex b y.1.place
          ((s.rightFrom b p y).isSome = true → (s.position n).presence ≠ .present →
            ∀ k, s.logical n = some k → s.posted t .nodePresent n.val (BitVec.ofNat 16 k))
          ∧ (rightReply y.1.cls p.number y.2 = none → s.turnsAbsent b p y.1 = true →
              ∀ k, s.logical n = some k →
                s.posted t .nodeAbsent n.val (twoPart k (if (s.position n).cfg.fixed then 1 else 0))))
      ∧ ∀ z,
          let called := (x.entries.zip ws).any fun y => y.1.cls == .sensor && y.1.zone == some z
            && ((s.rightFrom b p y).any fun v => v.getLsbD 8 || v.getLsbD 9)
          let judged := (x.entries.zip ws).any fun y => (s.rightFrom b p y).isSome
            && (s.position (posIndex b y.1.place)).presence != .present
            && (s.position (posIndex b y.1.place)).cfg.zone == some z
          let lost := (x.entries.zip ws).any fun y => s.turnsAbsent b p y.1 && (rightReply y.1.cls p.number y.2).isNone
            && (s.position (posIndex b y.1.place)).cfg.fixed && (s.position (posIndex b y.1.place)).cfg.zone == some z
          (if called = true ∧ ((s.zone z).state = .normal ∨ (s.zone z).state = .preAlarm) then
            (t.zone z).state = .alarm ∧ s.posted t .zoneState (z.val + 1) (twoPart 3 0)
              ∧ (t.zone z).window = if (s.zone z).state = .preAlarm then none else (s.zone z).window
          else (t.zone z).state = (s.zone z).state ∧ (t.zone z).window = (s.zone z).window)
          ∧ (judged = false → (t.zone z).fault = (s.faultRaised z lost).fault)
          ∧ (s.presenceLaw → judged = true → (s.zone z).state ≠ .unused →
              (∀ n, (s.position n).cfg.enabled = true → (s.position n).cfg.zone = some z → (s.position n).cfg.fixed = true →
                (t.position n).presence = .present) → (t.zone z).fault = false))
  ∧ (∀ (b : BranchId) (x p : BurstRecord) (ws : List ChainWord) (s : State),
      (s.branch b).state = .burst →
      (s.branch b).burst = some x →
      (s.branch b).held = false →
      goodReturn x.entries.length ws = true →
      (s.branch b).previous = some p →
      (x.entries.map BurstEntry.place).Nodup →
      (∀ e ∈ x.entries, e.cls ≠ .sensor) →
      ∃ t, exec (.burstEnd b (.words ws)) s = .next t
      ∧ (∀ y ∈ x.entries.zip ws, y.1.cls = .pa → ∀ v, s.rightFrom b p y = some v → ∀ z q, s.presenting z = some q →
          let n := posIndex b y.1.place
          let awaitsPlay := [(s.paNode n).waiting, (s.paNode n).carried].any fun c => match c with
            | some (.play _ _) => true
            | _ => false
          q.phase = .clip → n ∈ q.awaited →
            if v = 1 ∨ awaitsPlay = true then
              ∃ u, t.presenting z = some u ∧ u.tag = q.tag ∧ u.phase = .clip ∧ n ∈ u.awaited
            else if ∀ m ∈ q.awaited, m = n then
              t.presenting z = some ⟨q.tag, .hold, some ((s.zone z).cfg.holdTime * 1000000), none, []⟩
            else ∃ u, t.presenting z = some u ∧ u.tag = q.tag ∧ n ∉ u.awaited)
      ∧ ∀ y ∈ x.entries.zip ws, y.1.cls = .sign → ∀ v, s.rightFrom b p y = some v →
          let n := posIndex b y.1.place
          let old := s.transfer n
          ((s.position n).presence = .present →
            t.transfer n =
              if v.getLsbD 0 = true ∧ (old.status = .running ∨ old.status = .ended)
                  ∧ ∀ colour rows, old.carried ≠ some (.signHeader false colour rows) then
                if old.errors = 0 then { s.transferStarted n old.target with errors := 1 }
                else { old with status := .gaveUp, carried := none }
              else { old with carried := none })
          ∧ ((s.position n).presence ≠ .present → v.getLsbD 0 = false → ∀ z, (s.position n).cfg.zone = some z →
              t.transfer n = { s.transferStarted n (s.target z) with away := false }))
  ∧ (∀ (b : BranchId) (x p : BurstRecord) (s : State),
      (s.branch b).state = .burst →
      (s.branch b).burst = some x →
      (s.branch b).held = false →
      (s.branch b).previous = some p →
      (x.entries.map BurstEntry.place).Nodup →
      ∃ t, exec (.burstEnd b .silent) s = .next t
      ∧ (∀ e ∈ x.entries, s.turnsAbsent b p e = true → s.toldAbsent t (posIndex b e.place))
      ∧ ∀ z, t.zone z = s.faultRaised z (x.entries.any fun e => s.turnsAbsent b p e
          && (s.position (posIndex b e.place)).cfg.fixed && (s.position (posIndex b e.place)).cfg.zone == some z))
  ∧ (∀ (b : BranchId) (x : BurstRecord) (ret : ReturnStream) (s : State),
      (s.branch b).state = .burst →
      (s.branch b).burst = some x →
      (s.branch b).held = true →
      s.enabledPlaces b = [] →
      ∃ t, exec (.burstEnd b ret) s = .next t
      ∧ t.branch b = { s.branchEnded b x (t.branch b).checkRun with held := false } ∧ s.otherBranchesKept t b)
  ∧ (∀ (b : BranchId) (ret : ReturnStream) (s : State),
      (s.branch b).state ≠ .burst ∨ (s.branch b).burst = none →
      exec (.burstEnd b ret) s = .next s)
  ∧ (∀ (x : BurstRecord),
      x.line.head? = some (.lead (x.lead * 24))
      ∧ (x.line.filterMap fun i => match i with
          | .word w => some w
          | _ => none) = x.outgoing
      ∧ (x.line.filter fun i => i == .gap x.gap).length = x.entries.length + 1
      ∧ (x.line.map LineItem.bits).sum = x.lead * 24 + (x.entries.length + 2) * 24 + (x.entries.length + 1) * x.gap)
  ∧ (∀ (b : BranchId) (s : State),
      s.branchLaw →
      (s.chainSelect b = true ↔ s.forwardLine b ≠ []))

/-- CALL_POST (R181 to R183, R185, R187) and CALL_CANCEL (R190). -/
def Obligations.CallPostAndCancel : Prop :=
  (∀ (tag ct : Byte) (cls : CallClass) (set : Word) (clip : Option Byte) (block : Option BlockId) (pattern : Option ChimeId)
      (level : Option (Fin 16)) (rep : Fin 16) (gap : Nat) (s : State),
      s.active = true →
      ct.toNat < 240 →
      cls.isAlarm = false →
      1 ≤ set.toNat ∧ set.toNat ≤ 255 →
      clip.isSome = true ∨ block.isSome = true →
      gap ≤ 60 →
      (∀ z ∈ setZones set, (s.zone z).state ≠ .unused) →
      s.findCall ct = none →
      s.calls.queue.length < 16 →
      ∃ t, exec (.callPost tag (postWords ct cls set clip block pattern level rep gap)) s = .next t
      ∧ replied t 10 tag .done [] ∧ t.calls.queue.map Call.tag = s.calls.queue.map Call.tag ++ [ct]
      ∧ (t.calls.queue.getLast?.map fun c => { c with items := [] }) =
          some ⟨ct, cls, .bridge, clip.map (·.toNat), block, pattern, level.map (·.val), rep.val, gap, s.calls.arrival, []⟩
      ∧ (t.calls.queue.getLast?.map fun c => c.items.map fun i => (i.zone, i.remaining)) =
          some ((setZones set).map fun z => (z, rep.val))
      ∧ t.calls.arrival = s.calls.arrival + 1 ∧ (∀ z ∈ setZones set, (t.presenting z).isSome = true))
  ∧ (∀ (tag ct : Byte) (cls : CallClass) (set : Word) (clip : Option Byte) (block : Option BlockId) (pattern : Option ChimeId)
      (level : Option (Fin 16)) (rep : Fin 16) (gap : Nat) (v : Call) (s : State),
      s.active = true →
      ct.toNat < 240 →
      cls.isAlarm = false →
      1 ≤ set.toNat ∧ set.toNat ≤ 255 →
      clip.isSome = true ∨ block.isSome = true →
      gap ≤ 60 →
      (∀ z ∈ setZones set, (s.zone z).state ≠ .unused) →
      s.findCall ct = none →
      16 ≤ s.calls.queue.length →
      victim cls s.calls.queue = some v →
      ∃ t, exec (.callPost tag (postWords ct cls set clip block pattern level rep gap)) s = .next t
      ∧ replied t 10 tag .done []
      ∧ t.calls.queue.map Call.tag = (s.calls.queue.map Call.tag).filter (· != v.tag) ++ [ct]
      ∧ (t.calls.queue.getLast?.map fun c => { c with items := [] }) =
          some ⟨ct, cls, .bridge, clip.map (·.toNat), block, pattern, level.map (·.val), rep.val, gap, s.calls.arrival, []⟩
      ∧ (t.calls.queue.getLast?.map fun c => c.items.map fun i => (i.zone, i.remaining)) =
          some ((setZones set).map fun z => (z, rep.val))
      ∧ t.calls.arrival = s.calls.arrival + 1 ∧ (∀ z ∈ setZones set, (t.presenting z).isSome = true))
  ∧ (∀ (tag ct : Byte) (cls : CallClass) (set : Word) (clip : Option Byte) (block : Option BlockId) (pattern : Option ChimeId)
      (level : Option (Fin 16)) (rep : Fin 16) (gap : Nat) (s : State),
      s.active = true →
      ct.toNat < 240 →
      cls.isAlarm = false →
      1 ≤ set.toNat ∧ set.toNat ≤ 255 →
      clip.isSome = true ∨ block.isSome = true →
      gap ≤ 60 →
      (∀ z ∈ setZones set, (s.zone z).state ≠ .unused) →
      s.findCall ct = none →
      16 ≤ s.calls.queue.length →
      (∀ c ∈ s.calls.queue, cls.rank ≤ c.cls.rank) →
      exec (.callPost tag (postWords ct cls set clip block pattern level rep gap)) s =
        .next (s.withReply 10 tag .refusedFull []))
  ∧ (∀ (tag ct : Byte) (cls : CallClass) (set : Word) (clip : Option Byte) (block : Option BlockId) (pattern : Option ChimeId)
      (level : Option (Fin 16)) (rep : Fin 16) (gap : Nat) (s : State),
      s.active = true →
      ct.toNat < 240 →
      cls.isAlarm = false →
      1 ≤ set.toNat ∧ set.toNat ≤ 255 →
      clip.isSome = true ∨ block.isSome = true →
      gap ≤ 60 →
      (∃ z ∈ setZones set, (s.zone z).state = .unused) →
      exec (.callPost tag (postWords ct cls set clip block pattern level rep gap)) s =
        .next (s.withReply 10 tag .refusedState []))
  ∧ (∀ (tag ct : Byte) (cls : CallClass) (set : Word) (clip : Option Byte) (block : Option BlockId) (pattern : Option ChimeId)
      (level : Option (Fin 16)) (rep : Fin 16) (gap : Nat) (s : State),
      s.active = true →
      ct.toNat < 240 →
      cls.isAlarm = false →
      1 ≤ set.toNat ∧ set.toNat ≤ 255 →
      clip.isSome = true ∨ block.isSome = true →
      gap ≤ 60 →
      (∀ z ∈ setZones set, (s.zone z).state ≠ .unused) →
      (s.findCall ct).isSome = true →
      exec (.callPost tag (postWords ct cls set clip block pattern level rep gap)) s =
        .next (s.withReply 10 tag .refusedDuplicate []))
  ∧ (∀ (src : Source) (tag ct : Byte) (s : State),
      s.active = true →
      ct.toNat < 240 →
      (s.findCall ct).isSome = true →
      ∃ t, exec (.callCancel src tag (ct.setWidth 16)) s = .next t
      ∧ t.unit.reply = (if src = .own then some ⟨11, tag, .done, []⟩ else s.unit.reply)
      ∧ t.calls.queue.map Call.tag = (s.calls.queue.map Call.tag).filter (· != ct)
      ∧ (∀ z p, t.presenting z = some p → p.tag ≠ ct)
      ∧ ((∀ z p, s.presenting z = some p → p.tag ≠ ct) →
          { t with calls := s.calls, unit := s.unit } = s ∧ s.postsFirst t .callDone ct.toNat 1))
  ∧ (∀ (src : Source) (tag ct : Byte) (s : State),
      s.active = true →
      ct.toNat < 240 →
      s.findCall ct = none →
      exec (.callCancel src tag (ct.setWidth 16)) s =
        .next (if src = .own then s.withReply 11 tag .refusedState [] else s))
  ∧ (∀ (src : Source) (tag : Byte) (w : Word) (s : State),
      s.active = true →
      240 ≤ w.toNat →
      exec (.callCancel src tag w) s =
        .next (if src = .own then s.withReply 11 tag .refusedRange [1] else s))
  ∧ (∀ (tag ct clip : Byte) (cls : CallClass) (set : Word) (block : Option BlockId) (level : Option (Fin 16)) (rep : Fin 16)
      (gap : Nat) (z : ZoneId) (s : State),
      s.active = true →
      ct.toNat < 240 →
      cls.isAlarm = false →
      set.toNat ≤ 255 →
      gap ≤ 60 →
      (∀ z ∈ setZones set, (s.zone z).state ≠ .unused) →
      s.calls.queue = [] →
      z ∈ setZones set →
      s.presenting z = none →
      ∃ t, exec (.callPost tag (postWords ct cls set (some clip) block none level rep gap)) s = .next t
      ∧ t.presenting z = (if s.paAwaited z = [] then some ⟨ct, .hold, some ((s.zone z).cfg.holdTime * 1000000), none, []⟩
          else some ⟨ct, .clip, none, some 60000000, s.paAwaited z⟩)
      ∧ ∀ n ∈ s.paAwaited z, (t.paNode n).waiting =
          some (.play clip.toNat ((level.map (·.val)).getD (s.zone z).cfg.callLevel)))
  ∧ (∀ (z : ZoneId) (n : PosId) (s : State),
      n ∈ s.paAwaited z ↔ (s.position n).cfg.enabled = true ∧ (s.position n).cfg.cls = .pa
      ∧ (s.position n).cfg.zone = some z ∧ (s.position n).presence ≠ .absent
      ∧ ((s.branch (branchOf n)).state = .idle ∨ (s.branch (branchOf n)).state = .burst))

/-- HOLD_TIMER_EXPIRY (R188), CLIP_TIMER_EXPIRY (R187) and GAP_TIMER_EXPIRY (R185), at whatever time left (log entry 6). -/
def Obligations.CallTimers : Prop :=
  (∀ (z : ZoneId) (p : Presentation) (c : Call) (i : ProgressItem) (s : State),
      s.presenting z = some p →
      p.phase = .hold →
      p.holdTimer.isSome = true →
      s.queueLaw →
      s.findCall p.tag = some c →
      c.item z = some i →
      (c.items.map ProgressItem.zone).Nodup →
      ∃ t, exec (.holdTimerExpiry z) s = .next t
      ∧ (if c.repeats ≠ 0 ∧ i.remaining ≤ 1 then
          if c.items.all (fun j => j.zone == z || j.status == .done) then ∀ x ∈ t.calls.queue, x.tag ≠ p.tag
          else (t.findCall p.tag).bind (·.item z) = some ⟨z, 0, .done, none⟩
        else
          ((t.findCall p.tag).bind (·.item z)).map ProgressItem.remaining =
              some (if c.repeats = 0 then i.remaining else i.remaining - 1)
          ∧ (0 < c.gap → (t.findCall p.tag).bind (·.item z) =
              some ⟨z, if c.repeats = 0 then i.remaining else i.remaining - 1, .waiting, some (c.gap * 1000000)⟩))
      ∧ s.fieldKept t ∧ t.unit.reply = s.unit.reply)
  ∧ (∀ (z : ZoneId) (s : State),
      s.presenting z = none ∨ (∃ p, s.presenting z = some p ∧ (p.phase ≠ .hold ∨ p.holdTimer = none)) →
      exec (.holdTimerExpiry z) s = .next s)
  ∧ (∀ (z : ZoneId) (p : Presentation) (s : State),
      s.presenting z = some p →
      p.phase = .clip →
      p.clipTimer.isSome = true →
      ∃ t, exec (.clipTimerExpiry z) s = .next t
      ∧ t.presenting z = some ⟨p.tag, .hold, some ((s.zone z).cfg.holdTime * 1000000), none, []⟩
      ∧ (∀ y, y ≠ z → t.presenting y = s.presenting y)
      ∧ (∀ n, t.paNode n = if n ∈ p.awaited then { s.paNode n with waiting := some .stop } else s.paNode n)
      ∧ t.calls.queue = s.calls.queue ∧ t.unit = (s.post .clipTimeout (z.val + 1) (p.tag.setWidth 16)).unit
      ∧ { t with calls := s.calls, unit := s.unit } = s)
  ∧ (∀ (z : ZoneId) (s : State),
      s.presenting z = none ∨ (∃ p, s.presenting z = some p ∧ (p.phase ≠ .clip ∨ p.clipTimer = none)) →
      exec (.clipTimerExpiry z) s = .next s)
  ∧ (∀ (ct : Byte) (z : ZoneId) (c : Call) (i : ProgressItem) (s : State),
      s.findCall ct = some c →
      c.item z = some i →
      i.gap.isSome = true →
      ∃ t, exec (.gapTimerExpiry ct z) s = .next t
      ∧ (((t.findCall ct).bind (·.item z)).map ProgressItem.gap = some none)
      ∧ ((s.presenting z).isSome = true → (t.findCall ct).bind (·.item z) = some { i with gap := none }
          ∧ { t with calls := s.calls } = s)
      ∧ (s.presenting z = none → (s.zone z).state ≠ .unused → i.status = .waiting → (t.presenting z).isSome = true)
      ∧ s.fieldKept t ∧ t.unit.reply = s.unit.reply)
  ∧ (∀ (ct : Byte) (z : ZoneId) (s : State),
      (s.findCall ct).bind (·.item z) = none ∨ (∃ i, (s.findCall ct).bind (·.item z) = some i ∧ i.gap = none) →
      exec (.gapTimerExpiry ct z) s = .next s)

/-- CHIME_ON_EXPIRY and CHIME_OFF_EXPIRY (R110, R186), at whatever time left (log entry 6). -/
def Obligations.ChimePlayer : Prop :=
  (∀ (s : State),
      s.player.state = .on →
      s.player.timer.isSome = true →
      s.player.played + 1 < (s.chime s.player.pattern).repetitions →
      ∃ t, exec (.chimeOnExpiry) s = .next t
      ∧ t.player = { s.player with state := .off, played := s.player.played + 1,
                                   timer := some ((s.chime s.player.pattern).offTime * 1000) }
      ∧ (∀ c, t.channel c = if s.chanOf .chime = some c then { s.channel c with run := .stopped } else s.channel c)
      ∧ { t with player := s.player, channels := s.channels } = s)
  ∧ (∀ (s : State),
      s.player.state = .on →
      s.player.timer.isSome = true →
      (s.chime s.player.pattern).repetitions ≤ s.player.played + 1 →
      ∃ t, exec (.chimeOnExpiry) s = .next t
      ∧ (s.calls.chime = none →
          t.player = { s.player with state := .idle, played := s.player.played + 1, timer := none }
          ∧ (∀ c, t.channel c = if s.chanOf .chime = some c then { s.channel c with run := .stopped } else s.channel c)
          ∧ { t with player := s.player, channels := s.channels } = s)
      ∧ (∀ x, s.calls.chime = some x → ∀ z ∈ x.zones, (s.presentedCall z).isSome = true →
          (t.presenting z).map Presentation.phase = some .clip
              ∨ (t.presenting z).map Presentation.phase = some .hold))
  ∧ (∀ (s : State),
      s.player.state ≠ .on ∨ s.player.timer = none →
      exec (.chimeOnExpiry) s = .next s)
  ∧ (∀ (s : State),
      s.player.state = .off →
      s.player.timer.isSome = true →
      ∃ t, exec (.chimeOffExpiry) s = .next t
      ∧ (let e := s.chime s.player.pattern
       t.player = { s.player with state := .on, timer := some (e.onTime * 1000) }
       ∧ ∀ c, t.channel c = if s.chanOf .chime = some c then
            { s.channel c with run := .pwm ⟨0, 0, if e.tone = 0 then 1 else e.tone, e.tone * e.duty / 100, none, none,
                                           decide (0 < e.tone * e.duty / 100)⟩ }
          else s.channel c)
      ∧ { t with player := s.player, channels := s.channels } = s)
  ∧ (∀ (s : State),
      s.player.state ≠ .off ∨ s.player.timer = none →
      exec (.chimeOffExpiry) s = .next s)
  ∧ (∀ (x : ChimeRecord) (s : State),
      s.player.state = .on →
      s.player.timer.isSome = true →
      (s.chime s.player.pattern).repetitions ≤ s.player.played + 1 →
      s.calls.chime = some x →
      s.chimeWaiting = [] →
      ∃ t, exec (.chimeOnExpiry) s = .next t
      ∧ t.player = { s.player with state := .idle, played := s.player.played + 1, timer := none }
      ∧ t.calls.chime = none
      ∧ (∀ c, s.chanOf .chime = some c → t.channel c = { s.channel c with run := .stopped })
      ∧ (∀ z ∈ x.zones, t.functionStanding (.chime z) = .none) ∧ t.calls.queue = s.calls.queue ∧ s.fieldKept t)
  ∧ (∀ (x : ChimeRecord) (z : ZoneId) (c : Call) (k : ChimeId) (s : State),
      s.player.state = .on →
      s.player.timer.isSome = true →
      (s.chime s.player.pattern).repetitions ≤ s.player.played + 1 →
      s.calls.chime = some x →
      s.chimeWaiting = [z] →
      z ∉ x.zones →
      s.queueLaw →
      s.presentedCall z = some c →
      c.pattern = some k →
      ∃ t, exec (.chimeOnExpiry) s = .next t
      ∧ t.player = ⟨.on, k, 0, some ((s.chime k).onTime * 1000)⟩ ∧ t.calls.chime = some ⟨c.tag, c.cls, [z]⟩
      ∧ (t.presenting z).map Presentation.phase = some .chime ∧ s.fieldKept t)

/-- OUTPUT_SET (R84). -/
def Obligations.OutputSettings : Prop :=
  (∀ (tag : Byte) (p : PinId) (s : State),
      s.active = true →
      (s.pin p).cfg.function = .generalOut →
      (s.pin p).setting ≠ .on →
      ∃ t, exec (.outputSetOn tag (enc p.val)) s = .next t
      ∧ t.pins = s.pins.set p.val { s.pin p with setting := .on } ∧ replied t 12 tag .done [] ∧ s.sameOutside t
      ∧ s.sameChains t
      ∧ t.tables = s.tables ∧ t.zones = s.zones ∧ t.calls = s.calls
      ∧ s.otherDoorsKept t (fun _ => False) ∧ s.otherRampsKept t (fun _ => False)
      ∧ t.standing (pinClaimant p) ≠ .none)
  ∧ (∀ (tag : Byte) (p : PinId) (s : State),
      s.active = true →
      (s.pin p).cfg.function = .generalOut →
      (s.pin p).setting = .on →
      exec (.outputSetOn tag (enc p.val)) s = .next (s.withReply 12 tag .done []))
  ∧ (∀ (tag : Byte) (p : PinId) (f : FlashPair) (s : State),
      s.active = true →
      (s.pin p).cfg.function = .generalOut →
      (s.chanOf (if f = .flash1 then .flash1 else .flash2)).isSome = true →
      (s.pin p).setting ≠ (if f = .flash1 then .flash1 else .flash2) →
      ∃ t, exec (.outputSetFlash tag (enc p.val) f) s = .next t
      ∧ t.pins = s.pins.set p.val { s.pin p with setting := (if f = .flash1 then .flash1 else .flash2) }
      ∧ replied t 12 tag .done [] ∧ s.sameOutside t ∧ s.sameChains t
      ∧ t.tables = s.tables ∧ t.zones = s.zones ∧ t.calls = s.calls
      ∧ s.otherDoorsKept t (fun _ => False) ∧ s.otherRampsKept t (fun _ => False)
      ∧ t.standing (pinClaimant p) ≠ .none)
  ∧ (∀ (tag : Byte) (p : PinId) (f : FlashPair) (s : State),
      s.active = true →
      (s.pin p).cfg.function = .generalOut →
      (s.chanOf (if f = .flash1 then .flash1 else .flash2)).isSome = true →
      (s.pin p).setting = (if f = .flash1 then .flash1 else .flash2) →
      exec (.outputSetFlash tag (enc p.val) f) s = .next (s.withReply 12 tag .done []))
  ∧ (∀ (tag : Byte) (p : PinId) (s : State),
      s.active = true →
      (s.pin p).cfg.function = .generalOut →
      (s.pin p).setting ≠ .off →
      ∃ t, exec (.outputSetOff tag (enc p.val)) s = .next t
      ∧ t.pins = s.pins.set p.val { s.pin p with setting := .off } ∧ replied t 12 tag .done [] ∧ s.sameOutside t
      ∧ s.sameChains t
      ∧ t.tables = s.tables ∧ t.zones = s.zones ∧ t.calls = s.calls
      ∧ s.otherDoorsKept t (fun _ => False) ∧ s.otherRampsKept t (fun _ => False)
      ∧ t.standing (pinClaimant p) = .none)
  ∧ (∀ (tag : Byte) (p : PinId) (s : State),
      s.active = true →
      (s.pin p).cfg.function = .generalOut →
      (s.pin p).setting = .off →
      exec (.outputSetOff tag (enc p.val)) s = .next (s.withReply 12 tag .done []))
  ∧ (∀ (tag : Byte) (p : PinId) (s : State),
      s.active = true →
      (s.pin p).cfg.function ≠ .generalOut →
      exec (.outputSetOn tag (enc p.val)) s = .next (s.withReply 12 tag .refusedConflict [1]))
  ∧ (∀ (tag : Byte) (p : PinId) (s : State),
      s.active = true →
      (s.pin p).cfg.function ≠ .generalOut →
      exec (.outputSetOff tag (enc p.val)) s = .next (s.withReply 12 tag .refusedConflict [1]))
  ∧ (∀ (tag : Byte) (p : PinId) (f : FlashPair) (s : State),
      s.active = true →
      (s.pin p).cfg.function ≠ .generalOut →
      exec (.outputSetFlash tag (enc p.val) f) s = .next (s.withReply 12 tag .refusedConflict [1]))
  ∧ (∀ (tag : Byte) (p : PinId) (f : FlashPair) (s : State),
      s.active = true →
      (s.pin p).cfg.function = .generalOut →
      s.chanOf (if f = .flash1 then .flash1 else .flash2) = none →
      exec (.outputSetFlash tag (enc p.val) f) s = .next (s.withReply 12 tag .refusedState []))

/-- SILENCE_TIMER_EXPIRY (R15; the active ramps are halted together, log entry 43), LOCAL_CYCLE_TIMER_EXPIRY (R16, R47, R48) and the words of a burst (R49, R50, R187, R192 to R194). The row count of a raster-only header, and that a header takes the raster colour of its moment, are the model's choice (log entries 25 and 41). The two expiries act at whatever time left and do nothing when stopped (the model's choice, log entry 6). -/
def Obligations.SilenceAndLocalCycle : Prop :=
  (∀ (s : State),
      s.trunk.silence.isSome = true →
      s.trunk.mode ≠ .localMode →
      ∃ t, exec (.silenceTimerExpiry) s = .next t
      ∧ t.trunk = { s.trunk with mode := .localMode, silence := none, localCycles := 0,
                                 localCycle := some (s.unit.junction.localCycle * 1000) }
      ∧ t.pending = s.pending ∧ s.sameChains t ∧ t.tables = s.tables ∧ t.pins = s.pins ∧ t.zones = s.zones
      ∧ t.calls = s.calls
      ∧ s.postsFirst t .trunkLost 0 (BitVec.ofNat 16 s.trunk.mode.ctorIdx)
      ∧ (∀ r, (t.ramp r).state.isActive = false) ∧ s.otherRampsKept t (fun _ => False)
      ∧ (∀ r, (s.ramp r).state.isActive = true → s.rampHalted t r .trunk))
  ∧ (∀ (s : State),
      s.trunk.silence = none ∨ s.trunk.mode = .localMode →
      exec (.silenceTimerExpiry) s = .next s)
  ∧ (∀ (s : State),
      s.trunk.localCycle.isSome = true →
      s.trunk.mode = .localMode →
      ∃ t, exec (.localCycleTimerExpiry) s = .next t
      ∧ t.trunk = { s.trunk with cycle := s.trunk.cycle + 1, localCycles := min 65535 (s.trunk.localCycles + 1),
                                 localCycle := some (s.unit.junction.localCycle * 1000) }
      ∧ { t with trunk := s.trunk, branches := s.branches, positions := s.positions, calls := s.calls } = s
      ∧ (∀ b, match (s.branch b).state with
          | .idle => if s.enabledPlaces b = [] then t.branch b = s.branch b
              else (t.branch b).state = .burst ∧ (t.branch b).number = (s.branch b).number + 1
                ∧ (t.branch b).burst.map (fun y => (y.number, y.entries.map BurstEntry.place)) =
                    some ((s.branch b).number + 1, s.enabledPlaces b)
          | .burst => t.branch b = { s.branch b with held := true }
          | .disabled | .contended => t.branch b = s.branch b)
      ∧ (∀ n v, (s.branch (branchOf n)).state = .idle → (s.position n).cfg.enabled = true →
          (s.position n).cfg.cls = .general → (s.position n).pendingWord = some v →
          t.position n = { s.position n with pendingWord := none, lastWord := some v }))
  ∧ (∀ (s : State),
      s.trunk.localCycle = none ∨ s.trunk.mode ≠ .localMode →
      exec (.localCycleTimerExpiry) s = .next s)
  ∧ (∀ (n : PosId) (s : State),
      s.trunk.localCycle.isSome = true →
      s.trunk.mode = .localMode →
      (s.branch (branchOf n)).state = .idle →
      (s.position n).cfg.enabled = true →
      ∃ t, exec (.localCycleTimerExpiry) s = .next t
      ∧ ((t.branch (branchOf n)).burst.bind fun x => x.entries.find? fun e => e.place == placeOf n) =
          some ⟨placeOf n, (s.logical n).getD 0, (s.position n).cfg.cls, (s.position n).cfg.zone,
            match (s.position n).cfg.cls with
            | .general => (match (s.position n).pendingWord, (s.position n).cfg.policy with
              | some v, _ => .value v
              | none, .idle => .idle
              | none, .safe => .value (s.position n).cfg.safeValue
              | none, .repeatLast => ((s.position n).lastWord.map CommandWord.value).getD .idle)
            | .sensor => .poll
            | .pa => (match (s.paNode n).waiting with
              | some (.play k l) => .paPlay (BitVec.ofNat 8 k) (BitVec.ofNat 4 l)
              | some .stop => .paStop
              | none => .paKeep)
            | .sign => (s.nextSignWord (s.position n).cfg.zone (s.transfer n)).1⟩
      ∧ ((s.position n).cfg.cls = .pa → t.paNode n = ⟨none, (s.paNode n).waiting⟩)
      ∧ ((s.position n).cfg.cls = .sign → t.transfer n =
          { (s.nextSignWord (s.position n).cfg.zone (s.transfer n)).2 with
            carried := some (s.nextSignWord (s.position n).cfg.zone (s.transfer n)).1 }))
  ∧ (∀ (z : ZoneId) (k : BlockId) (x : SignTransfer) (s : State),
      x.away = false →
      x.again = none →
      x.status = .running →
      x.rasterOnly = false →
      x.next = none →
      x.target = some k →
      (s.nextSignWord (some z) x).1 = .signHeader false
          (if s.alarmed z then BitVec.ofNat 3 (s.zone z).cfg.alarmRaster else (s.signBlock k).raster) 2
      ∧ (∀ j : Fin 48, s.nextPrinted k 0 j → (s.nextSignWord (some z) x).2 = { x with next := some j })
      ∧ ((∀ j : Fin 48, (s.signBlock k).chars[j.val].code = 0) →
          (s.nextSignWord (some z) x).2 = { x with status := .ended }))
  ∧ (∀ (z : ZoneId) (x : SignTransfer) (s : State),
      x.away = false →
      x.again = none →
      x.status = .running →
      x.rasterOnly = false →
      x.next = none →
      x.target = none →
      s.nextSignWord (some z) x = (.signHeader false
          (if s.alarmed z then BitVec.ofNat 3 (s.zone z).cfg.alarmRaster else 0) 0, { x with status := .ended }))
  ∧ (∀ (z : ZoneId) (k : BlockId) (i : Fin 48) (x : SignTransfer) (s : State),
      x.away = false →
      x.again = none →
      x.status = .running →
      x.rasterOnly = false →
      x.next = some i →
      x.target = some k →
      (s.nextSignWord (some z) x).1 = .signChar (decide (24 ≤ i.val)) (BitVec.ofNat 5 (i.val % 24))
          (s.signBlock k).chars[i.val].flash (s.signBlock k).chars[i.val].colour (s.signBlock k).chars[i.val].code
      ∧ (∀ j : Fin 48, s.nextPrinted k (i.val + 1) j → (s.nextSignWord (some z) x).2 = { x with next := some j })
      ∧ ((∀ j : Fin 48, i < j → (s.signBlock k).chars[j.val].code = 0) →
          (s.nextSignWord (some z) x).2 = { x with status := .ended }))
  ∧ (∀ (z : ZoneId) (x : SignTransfer) (s : State),
      x.away = false →
      x.again = none →
      x.status = .running ∨ x.status = .ended →
      x.rasterOnly = true →
      (s.nextSignWord (some z) x).1 = .signHeader true
          (if s.alarmed z then BitVec.ofNat 3 (s.zone z).cfg.alarmRaster
            else (x.target.map fun k => (s.signBlock k).raster).getD 0) (if x.target = none then 0 else 2)
      ∧ (s.nextSignWord (some z) x).2 = { x with rasterOnly := false })
  ∧ (∀ (z : Option ZoneId) (x : SignTransfer) (s : State),
      x.away = true ∨ x.again = none
          ∧ (x.status = .stopped ∨ x.status = .gaveUp ∨ x.status = .ended ∧ x.rasterOnly = false) →
      s.nextSignWord z x = (.signIdle, x))
  ∧ (∀ (z : Option ZoneId) (w : CommandWord) (x : SignTransfer) (s : State),
      x.away = false →
      x.again = some w →
      s.nextSignWord z x = (w, { x with again := none }))

/-- RAW_INPUT_CHANGE and INPUT_FILTER_EXPIRY (R79, R80, R118, R119, R122, R137, R144, R166), the expiry at whatever time left and without effect when stopped (the model's choice, log entry 6). The clause on REOPENING has the warning counts right, which every step keeps (DoorLawKept). -/
def Obligations.RawLevels : Prop :=
  (∀ (p : PinId) (level : Bool) (s : State),
      level = (s.pin p).raw →
      exec (.rawInputChange p level) s = .next s)
  ∧ (∀ (p : PinId) (level : Bool) (s : State),
      (s.pin p).cfg.function.isInput = false →
      exec (.rawInputChange p level) s = .next (s.modPin p fun x => { x with raw := level }))
  ∧ (∀ (p : PinId) (level : Bool) (s : State),
      (s.pin p).cfg.function.isInput = true →
      level ≠ (s.pin p).raw →
      level = (s.pin p).filtered →
      exec (.rawInputChange p level) s =
        .next (s.modPin p fun x => { x with raw := level, filterTimer := none }))
  ∧ (∀ (p : PinId) (level : Bool) (s : State),
      (s.pin p).cfg.function.isInput = true →
      level ≠ (s.pin p).raw →
      level ≠ (s.pin p).filtered →
      (s.pin p).cfg.filter ≠ 0 →
      exec (.rawInputChange p level) s =
        .next (s.modPin p fun x => { x with raw := level, filterTimer := some (x.cfg.filter * 1000) }))
  ∧ (∀ (p : PinId) (level : Bool) (s : State),
      (s.pin p).cfg.function.isInput = true →
      (s.pin p).cfg.filter = 0 →
      level ≠ (s.pin p).raw →
      level ≠ (s.pin p).filtered →
      ∃ t, exec (.rawInputChange p level) s = .next t
      ∧ t.pins = s.pins.set p.val { s.pin p with raw := level, filtered := level, filterTimer := none }
      ∧ s.sameOutside t ∧ s.sameChains t ∧ t.tables = s.tables
      ∧ ((s.pin p).cfg.report = true →
          s.postsFirst t .inputChange p.val (encFlag ((s.pin p).cfg.polarity.apply level))))
  ∧ (∀ (p : PinId) (s : State),
      (s.pin p).filterTimer.isSome = true →
      ∃ t, exec (.inputFilterExpiry p) s = .next t
      ∧ t.pins = s.pins.set p.val { s.pin p with filtered := (s.pin p).raw, filterTimer := none }
      ∧ s.sameOutside t ∧ s.sameChains t ∧ t.tables = s.tables
      ∧ ((s.pin p).cfg.report = true → (s.pin p).cfg.function.isInput = true → (s.pin p).raw ≠ (s.pin p).filtered →
          s.postsFirst t .inputChange p.val (encFlag ((s.pin p).cfg.polarity.apply (s.pin p).raw))))
  ∧ (∀ (p : PinId) (s : State),
      (s.pin p).filterTimer = none →
      exec (.inputFilterExpiry p) s = .next s)
  ∧ (∀ (p : PinId) (z : ZoneId) (level : Bool) (s : State),
      (s.pin p).cfg.filter = 0 →
      level ≠ (s.pin p).raw →
      level ≠ (s.pin p).filtered →
      (s.pin p).cfg.polarity.apply level = true →
      (s.pin p).cfg.function = .detector z →
      (s.zone z).state = .normal →
      (s.zone z).cfg.threshold = 1 ∨ s.chanOf (.zoneDetector z) = none →
      ∃ t, exec (.rawInputChange p level) s = .next t
      ∧ (t.zone z).state = .alarm)
  ∧ (∀ (p : PinId) (z : ZoneId) (level : Bool) (s : State),
      (s.pin p).cfg.filter = 0 →
      level ≠ (s.pin p).raw →
      level ≠ (s.pin p).filtered →
      (s.pin p).cfg.polarity.apply level = true →
      (s.pin p).cfg.function = .callPoint z →
      (s.zone z).state = .normal ∨ (s.zone z).state = .preAlarm →
      ∃ t, exec (.rawInputChange p level) s = .next t
      ∧ (t.zone z).state = .alarm ∧ ((s.zone z).state = .preAlarm → (t.zone z).window = none))
  ∧ (∀ (p : PinId) (d : DoorId) (level : Bool) (s : State),
      (s.pin p).cfg.filter = 0 →
      level ≠ (s.pin p).raw →
      level ≠ (s.pin p).filtered →
      (s.pin p).cfg.polarity.apply level = true →
      s.pinOf (.doorClosedLimit d) = some p →
      (s.door d).state = .closing →
      s.inputActive (.doorOpenLimit d) = false →
      ∃ t, exec (.rawInputChange p level) s = .next t
      ∧ t.door d = s.doorSet d .closed .limit none ∧ t.noDoorClaim d)
  ∧ (∀ (p : PinId) (r : RampId) (level : Bool) (s : State),
      (s.pin p).cfg.filter = 0 →
      level ≠ (s.pin p).raw →
      level ≠ (s.pin p).filtered →
      (s.pin p).cfg.polarity.apply level = true →
      s.pinOf (.rampLandLimit r) = some p →
      (s.ramp r).state = .lowering →
      s.stowLimit r = false →
      ∃ t, exec (.rawInputChange p level) s = .next t
      ∧ t.ramp r = s.rampStill r .landed .limit ∧ t.account.find (driveClaimant r) = none
      ∧ t.functionStanding (.rampBeacon r) = .none)
  ∧ (∀ (p : PinId) (z : ZoneId) (c : ChanId) (k : CountRun) (level : Bool) (s : State),
      (s.pin p).cfg.filter = 0 →
      level ≠ (s.pin p).raw →
      level ≠ (s.pin p).filtered →
      (s.pin p).cfg.polarity.apply level = true →
      (s.pin p).cfg.function = .detector z →
      s.chanOf (.zoneDetector z) = some c →
      (s.channel c).run = .counting k →
      (s.zone z).state = .normal →
      2 ≤ (s.zone z).cfg.threshold →
      k.up = true →
      ∃ t, exec (.rawInputChange p level) s = .next t
      ∧ t.zone z = { s.zone z with state := .preAlarm, window := some ((s.zone z).cfg.window * 1000) }
      ∧ (t.channel c).run = .counting { k with count := 1, compare := (s.zone z).cfg.threshold, armed := true }
      ∧ s.posted t .zoneState (z.val + 1) (twoPart 2 0))
  ∧ (∀ (p : PinId) (z : ZoneId) (c : ChanId) (k : CountRun) (level : Bool) (s : State),
      (s.pin p).cfg.filter = 0 →
      level ≠ (s.pin p).raw →
      level ≠ (s.pin p).filtered →
      (s.pin p).cfg.polarity.apply level = true →
      (s.pin p).cfg.function = .detector z →
      s.chanOf (.zoneDetector z) = some c →
      (s.channel c).run = .counting k →
      (s.zone z).state = .preAlarm →
      k.up = true →
      k.armed = true →
      k.compare ≤ k.count + 1 →
      k.count < 16777215 →
      ∃ t, exec (.rawInputChange p level) s = .next t
      ∧ t.zone z = { s.zone z with state := .alarm, window := none }
      ∧ (t.channel c).run = .counting { k with count := 0, armed := false, capture := k.count + 1 }
      ∧ s.posted t .zoneState (z.val + 1) (twoPart 3 0))
  ∧ (∀ (p : PinId) (z : ZoneId) (c : ChanId) (k : CountRun) (level : Bool) (s : State),
      (s.pin p).cfg.filter = 0 →
      level ≠ (s.pin p).raw →
      level ≠ (s.pin p).filtered →
      (s.pin p).cfg.polarity.apply level = true →
      (s.pin p).cfg.function = .detector z →
      s.chanOf (.zoneDetector z) = some c →
      (s.channel c).run = .counting k →
      (s.zone z).state ≠ .normal →
      k.up = true →
      k.armed = false ∨ k.count + 1 < k.compare →
      k.count < 16777215 →
      ∃ t, exec (.rawInputChange p level) s = .next t
      ∧ t.zone z = s.zone z ∧ (t.channel c).run = .counting { k with count := k.count + 1 })
  ∧ (∀ (p : PinId) (d : DoorId) (level : Bool) (s : State),
      (s.pin p).cfg.filter = 0 →
      level ≠ (s.pin p).raw →
      level ≠ (s.pin p).filtered →
      (s.pin p).cfg.polarity.apply level = true →
      (s.pin p).cfg.function = .doorHoldButton d →
      (s.door d).state = .warning ∨ (s.door d).state = .closing ∨ (s.door d).state = .releasing
          ∧ (s.door d).timer = none →
      (s.door d).holdsUsed < (s.door d).cfg.maxHolds ∧ (s.zone (s.door d).cfg.zone).cfg.noHold = false →
      ∃ t, exec (.rawInputChange p level) s = .next t
      ∧ t.door d = s.doorHeld d ∧ t.noDoorClaim d ∧ s.posted t .doorState (d.val + 1) (twoPart 8 9))
  ∧ (∀ (p : PinId) (d : DoorId) (level : Bool) (s : State),
      (s.pin p).cfg.filter = 0 →
      level ≠ (s.pin p).raw →
      level ≠ (s.pin p).filtered →
      (s.pin p).cfg.polarity.apply level = true →
      (s.pin p).cfg.function = .doorHoldButton d →
      (s.door d).state = .releasing →
      (s.door d).timer.isSome = true →
      (s.door d).holdRequest = false →
      (s.door d).holdsUsed < (s.door d).cfg.maxHolds ∧ (s.zone (s.door d).cfg.zone).cfg.noHold = false →
      ∃ t, exec (.rawInputChange p level) s = .next t
      ∧ t.door d = { s.door d with holdRequest := true })
  ∧ (∀ (p : PinId) (d : DoorId) (level : Bool) (s : State),
      (s.pin p).cfg.filter = 0 →
      level ≠ (s.pin p).raw →
      level ≠ (s.pin p).filtered →
      (s.pin p).cfg.polarity.apply level = true →
      (s.pin p).cfg.function = .doorHoldButton d →
      (s.door d).state = .warning ∨ (s.door d).state = .closing ∨ (s.door d).state = .releasing
          ∧ (s.door d).timer.isSome = true ∧ (s.door d).holdRequest = false →
      (s.door d).cfg.maxHolds ≤ (s.door d).holdsUsed ∨ (s.zone (s.door d).cfg.zone).cfg.noHold = true →
      ∃ t, exec (.rawInputChange p level) s = .next t
      ∧ t.door d = { s.door d with reason := .holdRefused }
      ∧ s.posted t .doorState (d.val + 1) (twoPart (s.door d).state.ctorIdx 11))
  ∧ (∀ (p : PinId) (d : DoorId) (level : Bool) (s : State),
      (s.pin p).cfg.filter = 0 →
      level ≠ (s.pin p).raw →
      level ≠ (s.pin p).filtered →
      (s.pin p).cfg.polarity.apply level = true →
      (s.pin p).cfg.function = .doorHoldButton d →
      (s.door d).state = .releasing →
      (s.door d).timer = none →
      (s.door d).cfg.maxHolds ≤ (s.door d).holdsUsed ∨ (s.zone (s.door d).cfg.zone).cfg.noHold = true →
      ∃ t, exec (.rawInputChange p level) s = .next t
      ∧ (t.door d).state = .releasing ∧ (t.door d).reason = .holdRefused ∧ (t.door d).holdsUsed = (s.door d).holdsUsed
      ∧ s.posted t .doorState (d.val + 1) (twoPart 3 11))
  ∧ (∀ (p : PinId) (d : DoorId) (level : Bool) (s : State),
      (s.pin p).cfg.filter = 0 →
      level ≠ (s.pin p).raw →
      level ≠ (s.pin p).filtered →
      (s.pin p).cfg.polarity.apply level = true →
      (s.pin p).cfg.function = .doorHoldButton d →
      (s.door d).state.warns = false ∧ (s.door d).state ≠ .reopening ∨ (s.door d).state = .crewHold
          ∨ (s.door d).state = .releasing ∧ (s.door d).timer.isSome = true ∧ (s.door d).holdRequest = true →
      ∃ t, exec (.rawInputChange p level) s = .next t
      ∧ t.door d = s.door d)
  ∧ (∀ (p : PinId) (d : DoorId) (level : Bool) (s : State),
      (s.pin p).cfg.filter = 0 →
      level ≠ (s.pin p).raw →
      level ≠ (s.pin p).filtered →
      (s.pin p).cfg.polarity.apply level = true →
      (s.pin p).cfg.function = .doorHoldButton d →
      (s.door d).state = .reopening →
      s.pinUnwatched p →
      s.warningLaw →
      ∃ t, exec (.rawInputChange p level) s = .next t
      ∧ t.door d = s.door d)
  ∧ (∀ (p : PinId) (z : ZoneId) (level : Bool) (s : State),
      (s.pin p).cfg.filter = 0 →
      level ≠ (s.pin p).raw →
      level ≠ (s.pin p).filtered →
      (s.pin p).cfg.polarity.apply level = true →
      (s.pin p).cfg.function = .detector z →
      (s.zone z).state = .preAlarm →
      s.chanOf (.zoneDetector z) = none →
      ∃ t, exec (.rawInputChange p level) s = .next t
      ∧ t.zone z = { s.zone z with state := .alarm, window := none })

/-- STALL_COUNT_REACHED (R107, R165), PWM_PERIOD_START and PWM_DUTY_END (R100, R101), encoder edges (R103 to R106, R164, R165).
That each of the three events sets the count to that of its moment, whatever time has passed, is the model's reading (log entry
28). -/
def Obligations.StallAndPwm : Prop :=
  (∀ (c : ChanId) (r : RampId) (w : CaptureRun) (s : State),
      (s.channel c).run = .capturing w →
      (s.channel c).cfg.binding = .rampSpeed r →
      w.stalled = false →
      (s.ramp r).state = .lowering ∨ (s.ramp r).state = .raising →
      ∃ t, exec (.stallCountReached c) s = .next t
      ∧ t.ramp r = s.rampStill r .fault .stall ∧ t.account.find (driveClaimant r) = none ∧ s.fieldKept t)
  ∧ (∀ (c : ChanId) (r : RampId) (w : CaptureRun) (s : State),
      (s.channel c).run = .capturing w →
      (s.channel c).cfg.binding = .rampSpeed r →
      w.stalled = false →
      (s.ramp r).state ≠ .lowering →
      (s.ramp r).state ≠ .raising →
      exec (.stallCountReached c) s =
        .next (s.modChannel c fun x => { x with run := .capturing { w with count := w.stallCount, stalled := true } }))
  ∧ (∀ (c : ChanId) (s : State),
      (∀ r, (s.channel c).cfg.binding ≠ .rampSpeed r) ∨ ((match (s.channel c).run with
        | .capturing w => w.stalled
        | _ => true) = true) →
      exec (.stallCountReached c) s = .next s)
  ∧ (∀ (k : PairId) (x : PwmRun) (s : State),
      (s.channel (pairMaster k)).run = .pwm x →
      exec (.pwmPeriodStart k) s =
        .next (s.modChannel (pairMaster k) fun y => { y with run := .pwm ⟨0, 0, (if x.bufPeriod.getD x.period = 0 then 1 else x.bufPeriod.getD x.period), x.bufDuty.getD x.duty, none, none, decide (0 < x.bufDuty.getD x.duty)⟩ }))
  ∧ (∀ (k : PairId) (x : PwmRun) (s : State),
      (s.channel (pairMaster k)).run = .pwm x →
      x.output = true →
      x.duty < x.period →
      exec (.pwmDutyEnd k) s =
        .next (s.modChannel (pairMaster k) fun y => { y with run := .pwm { x with count := x.duty, sub := 0, output := false } }))
  ∧ (∀ (k : PairId) (s : State),
      ((match (s.channel (pairMaster k)).run with
        | .pwm x => !x.output || decide (x.period ≤ x.duty)
        | _ => true) = true) →
      exec (.pwmDutyEnd k) s = .next s)
  ∧ (∀ (k : PairId) (s : State),
      ((match (s.channel (pairMaster k)).run with
        | .pwm _ => false
        | _ => true) = true) →
      exec (.pwmPeriodStart k) s = .next s)
  ∧ (∀ (p : PinId) (r : RampId) (c : ChanId) (k : CountRun) (level : Bool) (s : State),
      (s.pin p).cfg.filter = 0 →
      level ≠ (s.pin p).raw →
      level ≠ (s.pin p).filtered →
      (s.pin p).cfg.polarity.apply level = true →
      (s.pin p).cfg.function = .rampEncoder r →
      s.chanOf (.rampEncoder r) = some c →
      (s.channel c).run = .counting k →
      ∃ t, exec (.rawInputChange p level) s = .next t
      ∧ (match (t.channel c).run with
        | .counting j => j.count = if k.up then (if k.count < 65535 then k.count + 1 else k.count) else k.count - 1
        | _ => False))
  ∧ (∀ (p : PinId) (r : RampId) (c e : ChanId) (k : CountRun) (x : PwmRun) (level : Bool) (s : State),
      (s.pin p).cfg.filter = 0 →
      level ≠ (s.pin p).raw →
      level ≠ (s.pin p).filtered →
      (s.pin p).cfg.polarity.apply level = true →
      (s.pin p).cfg.function = .rampEncoder r →
      s.chanOf (.rampEncoder r) = some c →
      (s.channel c).run = .counting k →
      (s.ramp r).state = .lowering ∨ (s.ramp r).state = .raising →
      k.armed = true →
      k.up = true ∧ k.compare ≤ k.count + 1 ∧ k.count < 65535 ∨ k.up = false ∧ k.count ≤ k.compare + 1 →
      (∀ d w, s.chanOf (.rampSpeed r) = some d → (s.channel d).run = .capturing w →
        w.edgeSeen = false ∨ w.minInterval ≤ w.count) →
      s.pinUnwatched p →
      s.chanOf (.rampValve r) = some e →
      (s.channel e).run = .pwm x →
      ∃ t, exec (.rawInputChange p level) s = .next t
      ∧ t.ramp r = { s.ramp r with slowMark := true }
      ∧ (t.channel e).run = .pwm { x with bufDuty := some ((s.ramp r).cfg.valvePeriod
          * min (if (s.ramp r).speed = .creep then (s.ramp r).cfg.creepDuty else (s.ramp r).cfg.runDuty) (s.ramp r).cfg.slowDuty
          / 100) }
      ∧ (t.channel c).run = .counting { k with count := if k.up then k.count + 1 else k.count - 1, armed := false,
                                               capture := if k.up then k.count + 1 else k.count - 1 })
  ∧ (∀ (p : PinId) (r : RampId) (c : ChanId) (w : CaptureRun) (level : Bool) (s : State),
      (s.pin p).cfg.filter = 0 →
      level ≠ (s.pin p).raw →
      level ≠ (s.pin p).filtered →
      (s.pin p).cfg.polarity.apply level = true →
      (s.pin p).cfg.function = .rampEncoder r →
      (s.ramp r).state = .lowering ∨ (s.ramp r).state = .raising →
      s.chanOf (.rampSpeed r) = some c →
      (s.channel c).run = .capturing w →
      w.edgeSeen = true →
      w.count < w.minInterval →
      ∃ t, exec (.rawInputChange p level) s = .next t
      ∧ t.ramp r = { s.rampStill r .fault .overspeed with slowMark := (t.ramp r).slowMark }
      ∧ (t.channel c).run = .stopped
      ∧ t.account.find (driveClaimant r) = none ∧ s.posted t .rampState (r.val + 1) (twoPart 9 12))
  ∧ (∀ (p : PinId) (r : RampId) (c : ChanId) (w : CaptureRun) (level : Bool) (s : State),
      (s.pin p).cfg.filter = 0 →
      level ≠ (s.pin p).raw →
      level ≠ (s.pin p).filtered →
      (s.pin p).cfg.polarity.apply level = true →
      (s.pin p).cfg.function = .rampEncoder r →
      (s.ramp r).state = .lowering ∨ (s.ramp r).state = .raising →
      s.chanOf (.rampSpeed r) = some c →
      (s.channel c).run = .capturing w →
      w.edgeSeen = false ∨ w.minInterval ≤ w.count →
      s.pinUnwatched p →
      ∃ t, exec (.rawInputChange p level) s = .next t
      ∧ t.ramp r = { s.ramp r with slowMark := (t.ramp r).slowMark }
      ∧ (t.channel c).run = .capturing { w with capture := w.count, count := 0, edgeSeen := true, stalled := false })
  ∧ (∀ (p : PinId) (r : RampId) (c : ChanId) (k : CountRun) (level : Bool) (s : State),
      (s.pin p).cfg.filter = 0 →
      level ≠ (s.pin p).raw →
      level ≠ (s.pin p).filtered →
      (s.pin p).cfg.polarity.apply level = true →
      (s.pin p).cfg.function = .rampStowLimit r →
      s.chanOf (.rampEncoder r) = some c →
      (s.channel c).run = .counting k →
      ∃ t, exec (.rawInputChange p level) s = .next t
      ∧ (match (t.channel c).run with
        | .counting j => j.count = 0
        | _ => False))

/-- LOAD_GRANT (R87, R88); output levels (R82), valves and locks (R83, R164). -/
def Obligations.GrantsAndValves : Prop :=
  (∀ (h : Claim) (p : PinId) (s : State),
      s.account.pending = [h] →
      h.claimant = pinClaimant p →
      (s.pin p).cfg.function = .generalOut →
      unitsOf s.account.granted + h.units ≤ s.unit.junction.loadBudget →
      exec (.loadGrant) s =
        .next ((if h.shed then s.post .loadRestored p.val (BitVec.ofNat 16 h.cls.ctorIdx) else s).modAccount fun a => { a with granted := a.granted ++ [{ h with shed := false }], pending := [] }))
  ∧ (∀ (s : State),
      s.account.pending = [] →
      exec (.loadGrant) s = .next s)
  ∧ (∀ (h : Claim) (l : List Claim) (s : State),
      s.account.pending = h :: l →
      s.unit.junction.loadBudget < unitsOf s.account.granted + h.units →
      h.cls = .hold ∨ h.cls = .service →
      exec (.loadGrant) s = .next s)
  ∧ (∀ (r : RampId) (p q : PinId) (s : State),
      (s.pin p).cfg.function = .rampLowerValve r →
      (s.pin q).cfg.function = .rampRaiseValve r →
      (s.outputLevel p = .inactive ∨ s.outputLevel q = .inactive)
      ∧ (s.outputLevel p ≠ .inactive → (s.ramp r).state = .lowering ∧ s.account.isGranted (driveClaimant r) = true)
      ∧ (s.outputLevel q ≠ .inactive → (s.ramp r).state = .raising ∧ s.account.isGranted (driveClaimant r) = true))
  ∧ (∀ (r : RampId) (p : PinId) (s : State),
      (s.pin p).cfg.function = .rampLock r →
      s.account.isPending (driveClaimant r) = true →
      s.outputLevel p = .inactive)
  ∧ (∀ (h : Claim) (l : List Claim) (s : State),
      s.account.pending = h :: l →
      s.unit.junction.loadBudget < unitsOf s.account.granted + h.units →
      h.cls = .fire ∨ h.cls = .motion →
      (∀ c ∈ s.account.granted, s.canShed c = false) →
      exec (.loadGrant) s = .next s)
  ∧ (∀ (h c : Claim) (l : List Claim) (p q : PinId) (s : State),
      s.account.pending = [h] →
      h.claimant = pinClaimant p →
      (∃ z, (s.pin p).cfg.function = .zoneBeacon z) ∨ (∃ r, (s.pin p).cfg.function = .rampBeacon r) →
      h.cls = .fire ∨ h.cls = .motion →
      h.shed = false →
      s.account.granted = l ++ [c] →
      c.claimant = pinClaimant q →
      c.cls = .service →
      (s.pin q).cfg.function = .generalOut ∧ (s.pin q).cfg.sheddable = true
          ∨ (∃ z, (s.pin q).cfg.function = .chime z) →
      (∀ d ∈ l, d.claimant ≠ c.claimant ∧ d.age < c.age) →
      s.unit.junction.loadBudget < unitsOf l + c.units + h.units →
      unitsOf l + h.units ≤ s.unit.junction.loadBudget →
      exec (.loadGrant) s =
        .next ((s.post .loadShed q.val (BitVec.ofNat 16 h.cls.ctorIdx)).modAccount fun a =>
        { a with granted := l ++ [h], pending := [{ c with shed := true }] }))
  ∧ (∀ (p : PinId) (s : State),
      (s.pin p).cfg.function.isOutput = false →
      s.outputLevel p = .notDriven ∧ s.electrical p = none)
  ∧ (∀ (p : PinId) (s : State),
      (s.pin p).cfg.function.claims = true →
      s.standing (pinClaimant p) ≠ .granted →
      s.outputLevel p = .inactive)
  ∧ (∀ (p : PinId) (s : State),
      (s.pin p).cfg.function.claims = true →
      s.standing (pinClaimant p) = .granted →
      s.outputLevel p = match (s.pin p).cfg.function with
        | .generalOut => (match (s.pin p).setting with
          | .off => .inactive
          | .on => .active
          | .flash1 => .follows .flash1
          | .flash2 => .follows .flash2)
        | .chime _ => .follows .chime
        | _ => .active)
  ∧ (∀ (p : PinId) (r : RampId) (s : State),
      (s.pin p).cfg.function = .rampLowerValve r ∧ (s.ramp r).state = .lowering
        ∨ (s.pin p).cfg.function = .rampRaiseValve r ∧ (s.ramp r).state = .raising →
      s.account.isGranted (driveClaimant r) = true →
      s.outputLevel p = .follows (.rampValve r))
  ∧ (∀ (p : PinId) (r : RampId) (s : State),
      (s.pin p).cfg.function = .rampLock r →
      s.account.isPending (driveClaimant r) = false →
      s.outputLevel p = if (s.ramp r).lockWanted then .active else .inactive)
  ∧ (∀ (p : PinId) (s : State),
      (s.pin p).cfg.function.isOutput = true →
      s.electrical p = some ((s.pin p).cfg.polarity.apply (match s.outputLevel p with
        | .active => true
        | .follows b => s.pairActive b
        | _ => false)))
  ∧ (∀ (b : Binding) (c : ChanId) (x : PwmRun) (s : State),
      s.chanOf b = some c →
      (s.channel c).run = .pwm x →
      s.pairActive b = x.output)

/-- The event queue (R36, R37). -/
def Obligations.EventLawKept : Prop :=
  ∀ (s t : State),
      s.eventLaw →
      step s = .next t →
      t.eventLaw

/-- The load budget is never exceeded (R87, R92). -/
def Obligations.LoadLawKept : Prop :=
  ∀ (s t : State),
      s.loadLaw →
      step s = .next t →
      t.loadLaw

/-- The claims (R85, R86). -/
def Obligations.ClaimLawKept : Prop :=
  ∀ (s t : State),
      s.claimLaw →
      step s = .next t →
      t.claimLaw

/-- Pins and bindings (R77, R96). -/
def Obligations.PinAndBindingLawsKept : Prop :=
  ∀ (s t : State),
      s.pinLaw →
      s.bindingLaw →
      step s = .next t →
      t.pinLaw ∧ t.bindingLaw

/-- Route entries (R64, R74). -/
def Obligations.RouteLawKept : Prop :=
  ∀ (s t : State),
      s.routeLaw →
      step s = .next t →
      t.routeLaw

/-- Modes and zones (R5, R15, R16, R116 to R120). -/
def Obligations.ModeAndZoneLawsKept : Prop :=
  ∀ (s t : State),
      s.modeLaw →
      s.zoneLaw →
      step s = .next t →
      t.modeLaw ∧ t.zoneLaw

/-- Branches and presence (R40 to R43, R55). -/
def Obligations.BranchAndPresenceLawsKept : Prop :=
  ∀ (s t : State),
      s.branchLaw →
      s.presenceLaw →
      step s = .next t →
      t.branchLaw ∧ t.presenceLaw

/-- Ramps and alarms (R128, R156, R161). -/
def Obligations.RampLawKept : Prop :=
  ∀ (s t : State),
      s.rampLaw →
      step s = .next t →
      t.rampLaw

/-- Fire doors and alarms (R128, R138, R149). -/
def Obligations.DoorLawKept : Prop :=
  ∀ (s t : State),
      s.doorLaw →
      s.warningLaw →
      step s = .next t →
      t.doorLaw ∧ t.warningLaw

/-- Calls (R128, R181 to R185). -/
def Obligations.CallLawKept : Prop :=
  ∀ (s t : State),
      s.callLaw →
      s.replyFits →
      s.tables.inRange = true →
      step s = .next t →
      t.callLaw ∧ t.replyFits

/-- Ramp timers and drive claims (R160 to R169). -/
def Obligations.RampTimerLawKept : Prop :=
  ∀ (s t : State),
      s.rampTimerLaw →
      step s = .next t →
      t.rampTimerLaw

/-- Door timers and claims (R139 to R147). No function stands on two pins, which every step keeps (PinAndBindingLawsKept). -/
def Obligations.DoorTimerLawKept : Prop :=
  ∀ (s t : State),
      s.doorTimerLaw →
      s.holdLaw →
      s.pinLaw →
      s.tables.inRange = true →
      step s = .next t →
      t.doorTimerLaw ∧ t.holdLaw

/-- The ranges of the records. -/
def Obligations.RangesKept : Prop :=
  ∀ (s t : State),
      s.tables.inRange = true →
      step s = .next t →
      t.tables.inRange = true

/-- The configuration lock (R30). -/
def Obligations.LockFreezes : Prop :=
  (∀ (tag : Byte) (p : PinId) (x : PinCfg) (s : State),
      s.active = true →
      s.unit.lock = true →
      x.inRange = true →
      exec (.pinWrite tag (enc p.val) x.words) s = .next (s.withReply 0 tag .refusedLocked []))
  ∧ (∀ (tag : Byte) (c : ChanId) (x : ChannelCfg) (s : State),
      s.active = true →
      s.unit.lock = true →
      x.inRange = true →
      exec (.channelWrite tag (enc c.val) x.words) s = .next (s.withReply 0 tag .refusedLocked []))
  ∧ (∀ (tag : Byte) (b : BranchId) (x : BranchCfg) (s : State),
      s.active = true →
      s.unit.lock = true →
      x.inRange = true →
      exec (.branchWrite tag (enc b.val) x.words) s = .next (s.withReply 0 tag .refusedLocked []))
  ∧ (∀ (tag : Byte) (n : PosId) (x : PositionCfg) (s : State),
      s.active = true →
      s.unit.lock = true →
      x.inRange = true →
      exec (.positionWrite tag (enc n.val) x.words) s = .next (s.withReply 0 tag .refusedLocked []))
  ∧ (∀ (s t : State),
      s.unit.lock = true →
      (∀ c ∈ s.pending.head?.toList, ∀ a, c ≠ .hardReset a) →
      step s = .next t →
      s.frozen t)

/-- R37. -/
def Obligations.ReplyTakesEvents : Prop :=
  (∀ (k : Parts) (s : State),
      k.events = true →
      s.replyEvents k = s.unit.events.take 4
      ∧ (s.afterBuild k).unit.events = s.unit.events.drop 4
      ∧ (s.afterBuild k).unit.overflow = (if s.unit.events.length ≤ 4 then false else s.unit.overflow))
  ∧ (∀ (k : Parts) (s : State),
      k.events = false →
      s.replyEvents k = [] ∧ (s.afterBuild k).unit.events = s.unit.events
      ∧ (s.afterBuild k).unit.overflow = s.unit.overflow)
  ∧ (∀ (k : Parts) (s : State),
      (s.replyBody k).head? = some (s.afterBuild k).statusRecord)
  ∧ (∀ (kind : EventKind) (subject : Nat) (detail : Word) (s : State),
      s.unit.overflow = true →
      (s.post kind subject detail).unit.overflow = true)
  ∧ (∀ (straps : BitVec 5) (s : State),
      ∃ t, exec (.hardReset straps) s = .next t
      ∧ t.unit.events = [] ∧ t.unit.overflow = false)

/-- R175, with the meaning of the conditions. The judgement is a function of the state, so that it changes none. -/
def Obligations.ActionsPermitted : Prop :=
  (∀ (a : PermitAction) (s : State),
      (∀ k, (s.permit k).used = true → (s.permit k).action ≠ a) →
      s.forbids a = none)
  ∧ (∀ (a : PermitAction) (k : PermitId) (s : State),
      s.guards k a →
      s.forbids a = (if ∀ c ∈ (s.permit k).conditions, s.holds c = true then none else some k))
  ∧ (∀ (s : State),
      s.holds .cleared = false
      ∧ (∀ d m, s.holds (.door d m) = true ↔ m.getLsbD (s.door d).state.ctorIdx = true)
      ∧ (∀ r m, s.holds (.ramp r m) = true ↔ m.getLsbD (s.ramp r).state.ctorIdx = true)
      ∧ (∀ z m, s.holds (.zone z m) = true ↔ m.getLsbD (s.zone z).state.ctorIdx = true)
      ∧ (∀ p a, s.holds (.pin p a) = true ↔
          (s.pin p).cfg.function.isInput = true ∧ (s.pin p).cfg.polarity.apply (s.pin p).filtered = a)
      ∧ ∀ n k a, s.holds (.node n k a) = true ↔ (s.position n).presence = .present
          ∧ ((s.position n).cfg.cls = .general ∨ (s.position n).cfg.cls = .sensor ∧ k.val < 8)
          ∧ (s.position n).lastReply.map (fun w => w.getLsbD k.val) = some a)

/-- R180. -/
def Obligations.PermitsAtResets : Prop :=
  (∀ (straps : BitVec 5) (s : State),
      ∃ t, exec (.hardReset straps) s = .next t
      ∧ (∀ k, t.permit k = ⟨false, .rampLower 0, [.cleared]⟩) ∧ (∀ a, t.forbids a = none))
  ∧ (∀ (s t : State),
      s.active = false →
      (∀ k, s.permit k = ⟨false, .rampLower 0, [.cleared]⟩) →
      step s = .next t →
      ∀ k, t.permit k = ⟨false, .rampLower 0, [.cleared]⟩)
  ∧ (∀ (src : Source) (tag : Byte) (p : List Word) (s : State),
      ∃ t, exec (.restart src tag p) s = .next t
      ∧ t.permits = s.permits)

/-- Records and their words (R27, R196, R197). In a permit condition the set of the state coded 0 alone is in range (the model's
choice, log entry 45). -/
def Obligations.RecordsReadBack : Prop :=
  (∀ x : JunctionCfg, x.inRange = true → readJunction x.words = .ok x)
      ∧ (∀ ws x, readJunction ws = .ok x → x.inRange = true)
  ∧ (∀ x : BranchCfg, x.inRange = true → readBranch x.words = .ok x)
  ∧ (∀ ws x, readBranch ws = .ok x → x.inRange = true)
  ∧ (∀ x : PositionCfg, x.inRange = true → readPosition x.words = .ok x)
  ∧ (∀ ws x, readPosition ws = .ok x → x.inRange = true)
  ∧ (∀ x : PinCfg, x.inRange = true → readPin x.words = .ok x) ∧ (∀ ws x, readPin ws = .ok x → x.inRange = true)
  ∧ (∀ x : ChannelCfg, x.inRange = true → readChannel x.words = .ok x)
  ∧ (∀ ws x, readChannel ws = .ok x → x.inRange = true)
  ∧ (∀ x : ChimeCfg, x.inRange = true → readChime x.words = .ok x) ∧ (∀ ws x, readChime ws = .ok x → x.inRange = true)
  ∧ (∀ x : ZoneCfg, x.inRange = true → readZone x.words = .ok x) ∧ (∀ ws x, readZone ws = .ok x → x.inRange = true)
  ∧ (∀ x : DoorCfg, x.inRange = true → readDoor x.words = .ok x) ∧ (∀ ws x, readDoor ws = .ok x → x.inRange = true)
  ∧ (∀ x : RampCfg, x.inRange = true → readRamp x.words = .ok x) ∧ (∀ ws x, readRamp ws = .ok x → x.inRange = true)
  ∧ (∀ x : PermitEntry, x.inRange = true → readPermit x.words = .ok x)
  ∧ (∀ ws x, readPermit ws = .ok x → x.inRange = true)

/-- Slot words (R9, R68, R69) and motion words (R18, R159 to R163). -/
def Obligations.SlotAndMotionWords : Prop :=
  (∀ (cycle v : Word) (i : SlotId) (s : State),
      s.active = true →
      (s.slot i).entry.names = none →
      ∃ t, exec (.frameArrival (itemFrame s.trunk.address cycle i.val v)) s = .next t
      ∧ (t.slot i).void = some v ∧ (t.slot i).entry = (s.slot i).entry ∧ t.ramps = s.ramps)
  ∧ (∀ (cycle v : Word) (i : SlotId) (n : PosId) (s : State),
      s.active = true →
      (s.slot i).entry.names = some n →
      ∃ t, exec (.frameArrival (itemFrame s.trunk.address cycle i.val v)) s = .next t
      ∧ ((s.branch (branchOf n)).state ≠ .idle → t.position n = { s.position n with pendingWord := some v })
      ∧ ((s.branch (branchOf n)).state = .idle → (s.position n).cfg.enabled = true →
          (s.position n).cfg.cls = .general →
          t.position n = { s.position n with pendingWord := none, lastWord := some v }) ∧ t.ramps = s.ramps)
  ∧ (∀ (cycle w : Word) (r : RampId) (s : State),
      s.active = true →
      w.getLsbD 15 = (s.ramp r).lastToggle →
      ∃ t, exec (.frameArrival (itemFrame s.trunk.address cycle (64 + r.val) w)) s = .next t
      ∧ s.frameAside t = s)
  ∧ (∀ (cycle w : Word) (r : RampId) (s : State),
      s.active = true →
      w.getLsbD 15 ≠ (s.ramp r).lastToggle →
      (s.ramp r).state = .disabled ∨ (s.ramp r).state = .fault ∨ (readMotion w).direction = none
          ∧ ((s.ramp r).state = .stowed ∨ (s.ramp r).state = .landed ∨ (s.ramp r).state = .held) →
      ∃ t, exec (.frameArrival (itemFrame s.trunk.address cycle (64 + r.val) w)) s = .next t
      ∧ s.frameAside t = s.modRamp r fun x => { x with lastToggle := w.getLsbD 15 })
  ∧ (∀ (cycle w : Word) (r : RampId) (dir : Direction) (s : State),
      s.active = true →
      w.getLsbD 15 ≠ (s.ramp r).lastToggle →
      (readMotion w).direction = some dir →
      (s.ramp r).state = .stowed ∧ dir = .raise ∨ (s.ramp r).state = .landed ∧ dir = .lower →
      ∃ t, exec (.frameArrival (itemFrame s.trunk.address cycle (64 + r.val) w)) s = .next t
      ∧ s.frameAside t = s.modRamp r fun x => { x with lastToggle := w.getLsbD 15, speed := (readMotion w).speed, reason := .limit })
  ∧ (∀ (cycle w : Word) (r : RampId) (dir : Direction) (why : RampReason) (s : State),
      s.active = true →
      w.getLsbD 15 ≠ (s.ramp r).lastToggle →
      (readMotion w).direction = some dir →
      (s.ramp r).state = .held ∨ (s.ramp r).state = .stowed ∧ dir = .lower ∨ (s.ramp r).state = .landed
          ∧ dir = .raise →
      s.startRefusal r dir = some why →
      ∃ t, exec (.frameArrival (itemFrame s.trunk.address cycle (64 + r.val) w)) s = .next t
      ∧ s.frameAside t = s.modRamp r fun x => { x with lastToggle := w.getLsbD 15, speed := (readMotion w).speed, reason := why })
  ∧ (∀ (cycle w : Word) (r : RampId) (dir : Direction) (s : State),
      s.active = true →
      w.getLsbD 15 ≠ (s.ramp r).lastToggle →
      (readMotion w).direction = some dir →
      (s.ramp r).state = .held ∨ (s.ramp r).state = .stowed ∧ dir = .lower ∨ (s.ramp r).state = .landed
          ∧ dir = .raise →
      s.startRefusal r dir = none →
      s.standing (driveClaimant r) = .none →
      ∃ t, exec (.frameArrival (itemFrame s.trunk.address cycle (64 + r.val) w)) s = .next t
      ∧ (t.standing (driveClaimant r) = .pending → t.ramp r =
          { s.ramp r with state := .awaitingLoad, reason := .load, startDir := dir, timer := none,
                          grace := some (s.unit.junction.runGrace * 1000), lastToggle := w.getLsbD 15, speed := (readMotion w).speed })
      ∧ (t.standing (driveClaimant r) = .granted → (t.ramp r).state =
          match dir with
          | .lower => if s.lockedLimit r then .unlocking else .lowering
          | .raise => if s.stowLimit r then .locking else .raising)
      ∧ (t.standing (driveClaimant r) = .granted → (t.ramp r).grace = some (s.unit.junction.runGrace * 1000)
          ∧ ((t.ramp r).state = .unlocking → (t.ramp r).timer = some ((s.ramp r).cfg.unlockTime * 1000)))
      ∧ (t.standing (driveClaimant r) = .none → (t.ramp r).state.isActive = false)
      ∧ (t.ramp r).lastToggle = w.getLsbD 15)
  ∧ (∀ (cycle w : Word) (r : RampId) (s : State),
      s.active = true →
      w.getLsbD 15 ≠ (s.ramp r).lastToggle →
      (s.ramp r).state.isActive = true →
      (readMotion w).direction = some (s.ramp r).direction →
      ∃ t, exec (.frameArrival (itemFrame s.trunk.address cycle (64 + r.val) w)) s = .next t
      ∧ t.ramp r = { s.ramp r with lastToggle := w.getLsbD 15, speed := (readMotion w).speed,
                                   grace := some (s.unit.junction.runGrace * 1000) })
  ∧ (∀ (cycle w : Word) (r : RampId) (s : State),
      s.active = true →
      w.getLsbD 15 ≠ (s.ramp r).lastToggle →
      (s.ramp r).state.isActive = true →
      (readMotion w).direction ≠ some (s.ramp r).direction →
      ∃ t, exec (.frameArrival (itemFrame s.trunk.address cycle (64 + r.val) w)) s = .next t
      ∧ t.ramp r = { s.ramp r with state := .held, reason := .stopped, grace := none, timer := none, lastToggle := w.getLsbD 15,
                                   speed := if (readMotion w).direction.isSome then (readMotion w).speed else (s.ramp r).speed }
      ∧ t.account.find (driveClaimant r) = none)
end

