-- ==== Sys2Proof/Laws/State.lean ====
section
/-! SUPPORT. What each update of the state leaves: one lemma for each update and component, and the entry of a table that an
update changes. -/

namespace Sys2Proof.Machine

/-- The entry of a table after an update of one entry. -/
theorem upd_get {α : Type} {n : Nat} (v : Vector α n) (i j : Fin n) (f : α → α) :
    (upd v i f)[j.val] = if j = i then f v[j.val] else v[j.val] := by
  unfold upd
  rw [Vector.getElem_set]
  by_cases h : j = i
  · subst h; simp
  · rw [if_neg h, if_neg fun e => h (Fin.ext e.symm)]

@[simp] theorem updAll_get {α : Type} {n : Nat} (v : Vector α n) (f : α → α) (j : Fin n) :
    (updAll v f)[j.val] = f v[j.val] := by
  simp [updAll]

namespace State

variable (s : State)

/-! ### `modTrunk` -/

@[simp] theorem modTrunk_trunk (f : Trunk → Trunk) : (s.modTrunk f).trunk = f s.trunk := rfl
@[simp] theorem modTrunk_unit (f : Trunk → Trunk) : (s.modTrunk f).unit = s.unit := rfl
@[simp] theorem modTrunk_branches (f : Trunk → Trunk) : (s.modTrunk f).branches = s.branches := rfl
@[simp] theorem modTrunk_branch (f : Trunk → Trunk) : (s.modTrunk f).branch = s.branch := rfl
@[simp] theorem modTrunk_positions (f : Trunk → Trunk) : (s.modTrunk f).positions = s.positions := rfl
@[simp] theorem modTrunk_position (f : Trunk → Trunk) : (s.modTrunk f).position = s.position := rfl
@[simp] theorem modTrunk_slots (f : Trunk → Trunk) : (s.modTrunk f).slots = s.slots := rfl
@[simp] theorem modTrunk_slot (f : Trunk → Trunk) : (s.modTrunk f).slot = s.slot := rfl
@[simp] theorem modTrunk_pins (f : Trunk → Trunk) : (s.modTrunk f).pins = s.pins := rfl
@[simp] theorem modTrunk_pin (f : Trunk → Trunk) : (s.modTrunk f).pin = s.pin := rfl
@[simp] theorem modTrunk_account (f : Trunk → Trunk) : (s.modTrunk f).account = s.account := rfl
@[simp] theorem modTrunk_channels (f : Trunk → Trunk) : (s.modTrunk f).channels = s.channels := rfl
@[simp] theorem modTrunk_channel (f : Trunk → Trunk) : (s.modTrunk f).channel = s.channel := rfl
@[simp] theorem modTrunk_chimes (f : Trunk → Trunk) : (s.modTrunk f).chimes = s.chimes := rfl
@[simp] theorem modTrunk_chime (f : Trunk → Trunk) : (s.modTrunk f).chime = s.chime := rfl
@[simp] theorem modTrunk_player (f : Trunk → Trunk) : (s.modTrunk f).player = s.player := rfl
@[simp] theorem modTrunk_zones (f : Trunk → Trunk) : (s.modTrunk f).zones = s.zones := rfl
@[simp] theorem modTrunk_zone (f : Trunk → Trunk) : (s.modTrunk f).zone = s.zone := rfl
@[simp] theorem modTrunk_doors (f : Trunk → Trunk) : (s.modTrunk f).doors = s.doors := rfl
@[simp] theorem modTrunk_door (f : Trunk → Trunk) : (s.modTrunk f).door = s.door := rfl
@[simp] theorem modTrunk_warnings (f : Trunk → Trunk) : (s.modTrunk f).warnings = s.warnings := rfl
@[simp] theorem modTrunk_warning (f : Trunk → Trunk) : (s.modTrunk f).warning = s.warning := rfl
@[simp] theorem modTrunk_ramps (f : Trunk → Trunk) : (s.modTrunk f).ramps = s.ramps := rfl
@[simp] theorem modTrunk_ramp (f : Trunk → Trunk) : (s.modTrunk f).ramp = s.ramp := rfl
@[simp] theorem modTrunk_permits (f : Trunk → Trunk) : (s.modTrunk f).permits = s.permits := rfl
@[simp] theorem modTrunk_permit (f : Trunk → Trunk) : (s.modTrunk f).permit = s.permit := rfl
@[simp] theorem modTrunk_calls (f : Trunk → Trunk) : (s.modTrunk f).calls = s.calls := rfl
@[simp] theorem modTrunk_pending (f : Trunk → Trunk) : (s.modTrunk f).pending = s.pending := rfl
@[simp] theorem modTrunk_freeSeq (f : Trunk → Trunk) : (s.modTrunk f).freeSeq = s.freeSeq := rfl

/-! ### `modUnit` -/

@[simp] theorem modUnit_unit (f : RequestUnit → RequestUnit) : (s.modUnit f).unit = f s.unit := rfl
@[simp] theorem modUnit_trunk (f : RequestUnit → RequestUnit) : (s.modUnit f).trunk = s.trunk := rfl
@[simp] theorem modUnit_branches (f : RequestUnit → RequestUnit) : (s.modUnit f).branches = s.branches := rfl
@[simp] theorem modUnit_branch (f : RequestUnit → RequestUnit) : (s.modUnit f).branch = s.branch := rfl
@[simp] theorem modUnit_positions (f : RequestUnit → RequestUnit) : (s.modUnit f).positions = s.positions := rfl
@[simp] theorem modUnit_position (f : RequestUnit → RequestUnit) : (s.modUnit f).position = s.position := rfl
@[simp] theorem modUnit_slots (f : RequestUnit → RequestUnit) : (s.modUnit f).slots = s.slots := rfl
@[simp] theorem modUnit_slot (f : RequestUnit → RequestUnit) : (s.modUnit f).slot = s.slot := rfl
@[simp] theorem modUnit_pins (f : RequestUnit → RequestUnit) : (s.modUnit f).pins = s.pins := rfl
@[simp] theorem modUnit_pin (f : RequestUnit → RequestUnit) : (s.modUnit f).pin = s.pin := rfl
@[simp] theorem modUnit_account (f : RequestUnit → RequestUnit) : (s.modUnit f).account = s.account := rfl
@[simp] theorem modUnit_channels (f : RequestUnit → RequestUnit) : (s.modUnit f).channels = s.channels := rfl
@[simp] theorem modUnit_channel (f : RequestUnit → RequestUnit) : (s.modUnit f).channel = s.channel := rfl
@[simp] theorem modUnit_chimes (f : RequestUnit → RequestUnit) : (s.modUnit f).chimes = s.chimes := rfl
@[simp] theorem modUnit_chime (f : RequestUnit → RequestUnit) : (s.modUnit f).chime = s.chime := rfl
@[simp] theorem modUnit_player (f : RequestUnit → RequestUnit) : (s.modUnit f).player = s.player := rfl
@[simp] theorem modUnit_zones (f : RequestUnit → RequestUnit) : (s.modUnit f).zones = s.zones := rfl
@[simp] theorem modUnit_zone (f : RequestUnit → RequestUnit) : (s.modUnit f).zone = s.zone := rfl
@[simp] theorem modUnit_doors (f : RequestUnit → RequestUnit) : (s.modUnit f).doors = s.doors := rfl
@[simp] theorem modUnit_door (f : RequestUnit → RequestUnit) : (s.modUnit f).door = s.door := rfl
@[simp] theorem modUnit_warnings (f : RequestUnit → RequestUnit) : (s.modUnit f).warnings = s.warnings := rfl
@[simp] theorem modUnit_warning (f : RequestUnit → RequestUnit) : (s.modUnit f).warning = s.warning := rfl
@[simp] theorem modUnit_ramps (f : RequestUnit → RequestUnit) : (s.modUnit f).ramps = s.ramps := rfl
@[simp] theorem modUnit_ramp (f : RequestUnit → RequestUnit) : (s.modUnit f).ramp = s.ramp := rfl
@[simp] theorem modUnit_permits (f : RequestUnit → RequestUnit) : (s.modUnit f).permits = s.permits := rfl
@[simp] theorem modUnit_permit (f : RequestUnit → RequestUnit) : (s.modUnit f).permit = s.permit := rfl
@[simp] theorem modUnit_calls (f : RequestUnit → RequestUnit) : (s.modUnit f).calls = s.calls := rfl
@[simp] theorem modUnit_pending (f : RequestUnit → RequestUnit) : (s.modUnit f).pending = s.pending := rfl
@[simp] theorem modUnit_freeSeq (f : RequestUnit → RequestUnit) : (s.modUnit f).freeSeq = s.freeSeq := rfl

/-! ### `modBranch` -/

theorem modBranch_branch (b j : BranchId) (f : Branch → Branch) :
    (s.modBranch b f).branch j = if j = b then f (s.branch j) else s.branch j := upd_get _ _ _ _
@[simp] theorem modBranch_branch_self (b : BranchId) (f : Branch → Branch) : (s.modBranch b f).branch b = f (s.branch b) := by
  rw [modBranch_branch, if_pos rfl]
theorem modBranch_branch_ne {b j : BranchId} (h : j ≠ b) (f : Branch → Branch) : (s.modBranch b f).branch j = s.branch j := by
  rw [modBranch_branch, if_neg h]
@[simp] theorem modBranch_trunk (b : BranchId) (f : Branch → Branch) : (s.modBranch b f).trunk = s.trunk := rfl
@[simp] theorem modBranch_unit (b : BranchId) (f : Branch → Branch) : (s.modBranch b f).unit = s.unit := rfl
@[simp] theorem modBranch_positions (b : BranchId) (f : Branch → Branch) : (s.modBranch b f).positions = s.positions := rfl
@[simp] theorem modBranch_position (b : BranchId) (f : Branch → Branch) : (s.modBranch b f).position = s.position := rfl
@[simp] theorem modBranch_slots (b : BranchId) (f : Branch → Branch) : (s.modBranch b f).slots = s.slots := rfl
@[simp] theorem modBranch_slot (b : BranchId) (f : Branch → Branch) : (s.modBranch b f).slot = s.slot := rfl
@[simp] theorem modBranch_pins (b : BranchId) (f : Branch → Branch) : (s.modBranch b f).pins = s.pins := rfl
@[simp] theorem modBranch_pin (b : BranchId) (f : Branch → Branch) : (s.modBranch b f).pin = s.pin := rfl
@[simp] theorem modBranch_account (b : BranchId) (f : Branch → Branch) : (s.modBranch b f).account = s.account := rfl
@[simp] theorem modBranch_channels (b : BranchId) (f : Branch → Branch) : (s.modBranch b f).channels = s.channels := rfl
@[simp] theorem modBranch_channel (b : BranchId) (f : Branch → Branch) : (s.modBranch b f).channel = s.channel := rfl
@[simp] theorem modBranch_chimes (b : BranchId) (f : Branch → Branch) : (s.modBranch b f).chimes = s.chimes := rfl
@[simp] theorem modBranch_chime (b : BranchId) (f : Branch → Branch) : (s.modBranch b f).chime = s.chime := rfl
@[simp] theorem modBranch_player (b : BranchId) (f : Branch → Branch) : (s.modBranch b f).player = s.player := rfl
@[simp] theorem modBranch_zones (b : BranchId) (f : Branch → Branch) : (s.modBranch b f).zones = s.zones := rfl
@[simp] theorem modBranch_zone (b : BranchId) (f : Branch → Branch) : (s.modBranch b f).zone = s.zone := rfl
@[simp] theorem modBranch_doors (b : BranchId) (f : Branch → Branch) : (s.modBranch b f).doors = s.doors := rfl
@[simp] theorem modBranch_door (b : BranchId) (f : Branch → Branch) : (s.modBranch b f).door = s.door := rfl
@[simp] theorem modBranch_warnings (b : BranchId) (f : Branch → Branch) : (s.modBranch b f).warnings = s.warnings := rfl
@[simp] theorem modBranch_warning (b : BranchId) (f : Branch → Branch) : (s.modBranch b f).warning = s.warning := rfl
@[simp] theorem modBranch_ramps (b : BranchId) (f : Branch → Branch) : (s.modBranch b f).ramps = s.ramps := rfl
@[simp] theorem modBranch_ramp (b : BranchId) (f : Branch → Branch) : (s.modBranch b f).ramp = s.ramp := rfl
@[simp] theorem modBranch_permits (b : BranchId) (f : Branch → Branch) : (s.modBranch b f).permits = s.permits := rfl
@[simp] theorem modBranch_permit (b : BranchId) (f : Branch → Branch) : (s.modBranch b f).permit = s.permit := rfl
@[simp] theorem modBranch_calls (b : BranchId) (f : Branch → Branch) : (s.modBranch b f).calls = s.calls := rfl
@[simp] theorem modBranch_pending (b : BranchId) (f : Branch → Branch) : (s.modBranch b f).pending = s.pending := rfl
@[simp] theorem modBranch_freeSeq (b : BranchId) (f : Branch → Branch) : (s.modBranch b f).freeSeq = s.freeSeq := rfl

/-! ### `modPosition` -/

theorem modPosition_position (n j : PosId) (f : Position → Position) :
    (s.modPosition n f).position j = if j = n then f (s.position j) else s.position j := upd_get _ _ _ _
@[simp] theorem modPosition_position_self (n : PosId) (f : Position → Position) : (s.modPosition n f).position n = f (s.position n) := by
  rw [modPosition_position, if_pos rfl]
theorem modPosition_position_ne {n j : PosId} (h : j ≠ n) (f : Position → Position) : (s.modPosition n f).position j = s.position j := by
  rw [modPosition_position, if_neg h]
@[simp] theorem modPosition_trunk (n : PosId) (f : Position → Position) : (s.modPosition n f).trunk = s.trunk := rfl
@[simp] theorem modPosition_unit (n : PosId) (f : Position → Position) : (s.modPosition n f).unit = s.unit := rfl
@[simp] theorem modPosition_branches (n : PosId) (f : Position → Position) : (s.modPosition n f).branches = s.branches := rfl
@[simp] theorem modPosition_branch (n : PosId) (f : Position → Position) : (s.modPosition n f).branch = s.branch := rfl
@[simp] theorem modPosition_slots (n : PosId) (f : Position → Position) : (s.modPosition n f).slots = s.slots := rfl
@[simp] theorem modPosition_slot (n : PosId) (f : Position → Position) : (s.modPosition n f).slot = s.slot := rfl
@[simp] theorem modPosition_pins (n : PosId) (f : Position → Position) : (s.modPosition n f).pins = s.pins := rfl
@[simp] theorem modPosition_pin (n : PosId) (f : Position → Position) : (s.modPosition n f).pin = s.pin := rfl
@[simp] theorem modPosition_account (n : PosId) (f : Position → Position) : (s.modPosition n f).account = s.account := rfl
@[simp] theorem modPosition_channels (n : PosId) (f : Position → Position) : (s.modPosition n f).channels = s.channels := rfl
@[simp] theorem modPosition_channel (n : PosId) (f : Position → Position) : (s.modPosition n f).channel = s.channel := rfl
@[simp] theorem modPosition_chimes (n : PosId) (f : Position → Position) : (s.modPosition n f).chimes = s.chimes := rfl
@[simp] theorem modPosition_chime (n : PosId) (f : Position → Position) : (s.modPosition n f).chime = s.chime := rfl
@[simp] theorem modPosition_player (n : PosId) (f : Position → Position) : (s.modPosition n f).player = s.player := rfl
@[simp] theorem modPosition_zones (n : PosId) (f : Position → Position) : (s.modPosition n f).zones = s.zones := rfl
@[simp] theorem modPosition_zone (n : PosId) (f : Position → Position) : (s.modPosition n f).zone = s.zone := rfl
@[simp] theorem modPosition_doors (n : PosId) (f : Position → Position) : (s.modPosition n f).doors = s.doors := rfl
@[simp] theorem modPosition_door (n : PosId) (f : Position → Position) : (s.modPosition n f).door = s.door := rfl
@[simp] theorem modPosition_warnings (n : PosId) (f : Position → Position) : (s.modPosition n f).warnings = s.warnings := rfl
@[simp] theorem modPosition_warning (n : PosId) (f : Position → Position) : (s.modPosition n f).warning = s.warning := rfl
@[simp] theorem modPosition_ramps (n : PosId) (f : Position → Position) : (s.modPosition n f).ramps = s.ramps := rfl
@[simp] theorem modPosition_ramp (n : PosId) (f : Position → Position) : (s.modPosition n f).ramp = s.ramp := rfl
@[simp] theorem modPosition_permits (n : PosId) (f : Position → Position) : (s.modPosition n f).permits = s.permits := rfl
@[simp] theorem modPosition_permit (n : PosId) (f : Position → Position) : (s.modPosition n f).permit = s.permit := rfl
@[simp] theorem modPosition_calls (n : PosId) (f : Position → Position) : (s.modPosition n f).calls = s.calls := rfl
@[simp] theorem modPosition_pending (n : PosId) (f : Position → Position) : (s.modPosition n f).pending = s.pending := rfl
@[simp] theorem modPosition_freeSeq (n : PosId) (f : Position → Position) : (s.modPosition n f).freeSeq = s.freeSeq := rfl

/-! ### `modSlot` -/

theorem modSlot_slot (i j : SlotId) (f : Slot → Slot) :
    (s.modSlot i f).slot j = if j = i then f (s.slot j) else s.slot j := upd_get _ _ _ _
@[simp] theorem modSlot_slot_self (i : SlotId) (f : Slot → Slot) : (s.modSlot i f).slot i = f (s.slot i) := by
  rw [modSlot_slot, if_pos rfl]
theorem modSlot_slot_ne {i j : SlotId} (h : j ≠ i) (f : Slot → Slot) : (s.modSlot i f).slot j = s.slot j := by
  rw [modSlot_slot, if_neg h]
@[simp] theorem modSlot_trunk (i : SlotId) (f : Slot → Slot) : (s.modSlot i f).trunk = s.trunk := rfl
@[simp] theorem modSlot_unit (i : SlotId) (f : Slot → Slot) : (s.modSlot i f).unit = s.unit := rfl
@[simp] theorem modSlot_branches (i : SlotId) (f : Slot → Slot) : (s.modSlot i f).branches = s.branches := rfl
@[simp] theorem modSlot_branch (i : SlotId) (f : Slot → Slot) : (s.modSlot i f).branch = s.branch := rfl
@[simp] theorem modSlot_positions (i : SlotId) (f : Slot → Slot) : (s.modSlot i f).positions = s.positions := rfl
@[simp] theorem modSlot_position (i : SlotId) (f : Slot → Slot) : (s.modSlot i f).position = s.position := rfl
@[simp] theorem modSlot_pins (i : SlotId) (f : Slot → Slot) : (s.modSlot i f).pins = s.pins := rfl
@[simp] theorem modSlot_pin (i : SlotId) (f : Slot → Slot) : (s.modSlot i f).pin = s.pin := rfl
@[simp] theorem modSlot_account (i : SlotId) (f : Slot → Slot) : (s.modSlot i f).account = s.account := rfl
@[simp] theorem modSlot_channels (i : SlotId) (f : Slot → Slot) : (s.modSlot i f).channels = s.channels := rfl
@[simp] theorem modSlot_channel (i : SlotId) (f : Slot → Slot) : (s.modSlot i f).channel = s.channel := rfl
@[simp] theorem modSlot_chimes (i : SlotId) (f : Slot → Slot) : (s.modSlot i f).chimes = s.chimes := rfl
@[simp] theorem modSlot_chime (i : SlotId) (f : Slot → Slot) : (s.modSlot i f).chime = s.chime := rfl
@[simp] theorem modSlot_player (i : SlotId) (f : Slot → Slot) : (s.modSlot i f).player = s.player := rfl
@[simp] theorem modSlot_zones (i : SlotId) (f : Slot → Slot) : (s.modSlot i f).zones = s.zones := rfl
@[simp] theorem modSlot_zone (i : SlotId) (f : Slot → Slot) : (s.modSlot i f).zone = s.zone := rfl
@[simp] theorem modSlot_doors (i : SlotId) (f : Slot → Slot) : (s.modSlot i f).doors = s.doors := rfl
@[simp] theorem modSlot_door (i : SlotId) (f : Slot → Slot) : (s.modSlot i f).door = s.door := rfl
@[simp] theorem modSlot_warnings (i : SlotId) (f : Slot → Slot) : (s.modSlot i f).warnings = s.warnings := rfl
@[simp] theorem modSlot_warning (i : SlotId) (f : Slot → Slot) : (s.modSlot i f).warning = s.warning := rfl
@[simp] theorem modSlot_ramps (i : SlotId) (f : Slot → Slot) : (s.modSlot i f).ramps = s.ramps := rfl
@[simp] theorem modSlot_ramp (i : SlotId) (f : Slot → Slot) : (s.modSlot i f).ramp = s.ramp := rfl
@[simp] theorem modSlot_permits (i : SlotId) (f : Slot → Slot) : (s.modSlot i f).permits = s.permits := rfl
@[simp] theorem modSlot_permit (i : SlotId) (f : Slot → Slot) : (s.modSlot i f).permit = s.permit := rfl
@[simp] theorem modSlot_calls (i : SlotId) (f : Slot → Slot) : (s.modSlot i f).calls = s.calls := rfl
@[simp] theorem modSlot_pending (i : SlotId) (f : Slot → Slot) : (s.modSlot i f).pending = s.pending := rfl
@[simp] theorem modSlot_freeSeq (i : SlotId) (f : Slot → Slot) : (s.modSlot i f).freeSeq = s.freeSeq := rfl

/-! ### `modPin` -/

theorem modPin_pin (p j : PinId) (f : Pin → Pin) :
    (s.modPin p f).pin j = if j = p then f (s.pin j) else s.pin j := upd_get _ _ _ _
@[simp] theorem modPin_pin_self (p : PinId) (f : Pin → Pin) : (s.modPin p f).pin p = f (s.pin p) := by
  rw [modPin_pin, if_pos rfl]
theorem modPin_pin_ne {p j : PinId} (h : j ≠ p) (f : Pin → Pin) : (s.modPin p f).pin j = s.pin j := by
  rw [modPin_pin, if_neg h]
@[simp] theorem modPin_trunk (p : PinId) (f : Pin → Pin) : (s.modPin p f).trunk = s.trunk := rfl
@[simp] theorem modPin_unit (p : PinId) (f : Pin → Pin) : (s.modPin p f).unit = s.unit := rfl
@[simp] theorem modPin_branches (p : PinId) (f : Pin → Pin) : (s.modPin p f).branches = s.branches := rfl
@[simp] theorem modPin_branch (p : PinId) (f : Pin → Pin) : (s.modPin p f).branch = s.branch := rfl
@[simp] theorem modPin_positions (p : PinId) (f : Pin → Pin) : (s.modPin p f).positions = s.positions := rfl
@[simp] theorem modPin_position (p : PinId) (f : Pin → Pin) : (s.modPin p f).position = s.position := rfl
@[simp] theorem modPin_slots (p : PinId) (f : Pin → Pin) : (s.modPin p f).slots = s.slots := rfl
@[simp] theorem modPin_slot (p : PinId) (f : Pin → Pin) : (s.modPin p f).slot = s.slot := rfl
@[simp] theorem modPin_account (p : PinId) (f : Pin → Pin) : (s.modPin p f).account = s.account := rfl
@[simp] theorem modPin_channels (p : PinId) (f : Pin → Pin) : (s.modPin p f).channels = s.channels := rfl
@[simp] theorem modPin_channel (p : PinId) (f : Pin → Pin) : (s.modPin p f).channel = s.channel := rfl
@[simp] theorem modPin_chimes (p : PinId) (f : Pin → Pin) : (s.modPin p f).chimes = s.chimes := rfl
@[simp] theorem modPin_chime (p : PinId) (f : Pin → Pin) : (s.modPin p f).chime = s.chime := rfl
@[simp] theorem modPin_player (p : PinId) (f : Pin → Pin) : (s.modPin p f).player = s.player := rfl
@[simp] theorem modPin_zones (p : PinId) (f : Pin → Pin) : (s.modPin p f).zones = s.zones := rfl
@[simp] theorem modPin_zone (p : PinId) (f : Pin → Pin) : (s.modPin p f).zone = s.zone := rfl
@[simp] theorem modPin_doors (p : PinId) (f : Pin → Pin) : (s.modPin p f).doors = s.doors := rfl
@[simp] theorem modPin_door (p : PinId) (f : Pin → Pin) : (s.modPin p f).door = s.door := rfl
@[simp] theorem modPin_warnings (p : PinId) (f : Pin → Pin) : (s.modPin p f).warnings = s.warnings := rfl
@[simp] theorem modPin_warning (p : PinId) (f : Pin → Pin) : (s.modPin p f).warning = s.warning := rfl
@[simp] theorem modPin_ramps (p : PinId) (f : Pin → Pin) : (s.modPin p f).ramps = s.ramps := rfl
@[simp] theorem modPin_ramp (p : PinId) (f : Pin → Pin) : (s.modPin p f).ramp = s.ramp := rfl
@[simp] theorem modPin_permits (p : PinId) (f : Pin → Pin) : (s.modPin p f).permits = s.permits := rfl
@[simp] theorem modPin_permit (p : PinId) (f : Pin → Pin) : (s.modPin p f).permit = s.permit := rfl
@[simp] theorem modPin_calls (p : PinId) (f : Pin → Pin) : (s.modPin p f).calls = s.calls := rfl
@[simp] theorem modPin_pending (p : PinId) (f : Pin → Pin) : (s.modPin p f).pending = s.pending := rfl
@[simp] theorem modPin_freeSeq (p : PinId) (f : Pin → Pin) : (s.modPin p f).freeSeq = s.freeSeq := rfl

/-! ### `modAccount` -/

@[simp] theorem modAccount_account (f : Account → Account) : (s.modAccount f).account = f s.account := rfl
@[simp] theorem modAccount_trunk (f : Account → Account) : (s.modAccount f).trunk = s.trunk := rfl
@[simp] theorem modAccount_unit (f : Account → Account) : (s.modAccount f).unit = s.unit := rfl
@[simp] theorem modAccount_branches (f : Account → Account) : (s.modAccount f).branches = s.branches := rfl
@[simp] theorem modAccount_branch (f : Account → Account) : (s.modAccount f).branch = s.branch := rfl
@[simp] theorem modAccount_positions (f : Account → Account) : (s.modAccount f).positions = s.positions := rfl
@[simp] theorem modAccount_position (f : Account → Account) : (s.modAccount f).position = s.position := rfl
@[simp] theorem modAccount_slots (f : Account → Account) : (s.modAccount f).slots = s.slots := rfl
@[simp] theorem modAccount_slot (f : Account → Account) : (s.modAccount f).slot = s.slot := rfl
@[simp] theorem modAccount_pins (f : Account → Account) : (s.modAccount f).pins = s.pins := rfl
@[simp] theorem modAccount_pin (f : Account → Account) : (s.modAccount f).pin = s.pin := rfl
@[simp] theorem modAccount_channels (f : Account → Account) : (s.modAccount f).channels = s.channels := rfl
@[simp] theorem modAccount_channel (f : Account → Account) : (s.modAccount f).channel = s.channel := rfl
@[simp] theorem modAccount_chimes (f : Account → Account) : (s.modAccount f).chimes = s.chimes := rfl
@[simp] theorem modAccount_chime (f : Account → Account) : (s.modAccount f).chime = s.chime := rfl
@[simp] theorem modAccount_player (f : Account → Account) : (s.modAccount f).player = s.player := rfl
@[simp] theorem modAccount_zones (f : Account → Account) : (s.modAccount f).zones = s.zones := rfl
@[simp] theorem modAccount_zone (f : Account → Account) : (s.modAccount f).zone = s.zone := rfl
@[simp] theorem modAccount_doors (f : Account → Account) : (s.modAccount f).doors = s.doors := rfl
@[simp] theorem modAccount_door (f : Account → Account) : (s.modAccount f).door = s.door := rfl
@[simp] theorem modAccount_warnings (f : Account → Account) : (s.modAccount f).warnings = s.warnings := rfl
@[simp] theorem modAccount_warning (f : Account → Account) : (s.modAccount f).warning = s.warning := rfl
@[simp] theorem modAccount_ramps (f : Account → Account) : (s.modAccount f).ramps = s.ramps := rfl
@[simp] theorem modAccount_ramp (f : Account → Account) : (s.modAccount f).ramp = s.ramp := rfl
@[simp] theorem modAccount_permits (f : Account → Account) : (s.modAccount f).permits = s.permits := rfl
@[simp] theorem modAccount_permit (f : Account → Account) : (s.modAccount f).permit = s.permit := rfl
@[simp] theorem modAccount_calls (f : Account → Account) : (s.modAccount f).calls = s.calls := rfl
@[simp] theorem modAccount_pending (f : Account → Account) : (s.modAccount f).pending = s.pending := rfl
@[simp] theorem modAccount_freeSeq (f : Account → Account) : (s.modAccount f).freeSeq = s.freeSeq := rfl

/-! ### `modChannel` -/

theorem modChannel_channel (c j : ChanId) (f : Channel → Channel) :
    (s.modChannel c f).channel j = if j = c then f (s.channel j) else s.channel j := upd_get _ _ _ _
@[simp] theorem modChannel_channel_self (c : ChanId) (f : Channel → Channel) : (s.modChannel c f).channel c = f (s.channel c) := by
  rw [modChannel_channel, if_pos rfl]
theorem modChannel_channel_ne {c j : ChanId} (h : j ≠ c) (f : Channel → Channel) : (s.modChannel c f).channel j = s.channel j := by
  rw [modChannel_channel, if_neg h]
@[simp] theorem modChannel_trunk (c : ChanId) (f : Channel → Channel) : (s.modChannel c f).trunk = s.trunk := rfl
@[simp] theorem modChannel_unit (c : ChanId) (f : Channel → Channel) : (s.modChannel c f).unit = s.unit := rfl
@[simp] theorem modChannel_branches (c : ChanId) (f : Channel → Channel) : (s.modChannel c f).branches = s.branches := rfl
@[simp] theorem modChannel_branch (c : ChanId) (f : Channel → Channel) : (s.modChannel c f).branch = s.branch := rfl
@[simp] theorem modChannel_positions (c : ChanId) (f : Channel → Channel) : (s.modChannel c f).positions = s.positions := rfl
@[simp] theorem modChannel_position (c : ChanId) (f : Channel → Channel) : (s.modChannel c f).position = s.position := rfl
@[simp] theorem modChannel_slots (c : ChanId) (f : Channel → Channel) : (s.modChannel c f).slots = s.slots := rfl
@[simp] theorem modChannel_slot (c : ChanId) (f : Channel → Channel) : (s.modChannel c f).slot = s.slot := rfl
@[simp] theorem modChannel_pins (c : ChanId) (f : Channel → Channel) : (s.modChannel c f).pins = s.pins := rfl
@[simp] theorem modChannel_pin (c : ChanId) (f : Channel → Channel) : (s.modChannel c f).pin = s.pin := rfl
@[simp] theorem modChannel_account (c : ChanId) (f : Channel → Channel) : (s.modChannel c f).account = s.account := rfl
@[simp] theorem modChannel_chimes (c : ChanId) (f : Channel → Channel) : (s.modChannel c f).chimes = s.chimes := rfl
@[simp] theorem modChannel_chime (c : ChanId) (f : Channel → Channel) : (s.modChannel c f).chime = s.chime := rfl
@[simp] theorem modChannel_player (c : ChanId) (f : Channel → Channel) : (s.modChannel c f).player = s.player := rfl
@[simp] theorem modChannel_zones (c : ChanId) (f : Channel → Channel) : (s.modChannel c f).zones = s.zones := rfl
@[simp] theorem modChannel_zone (c : ChanId) (f : Channel → Channel) : (s.modChannel c f).zone = s.zone := rfl
@[simp] theorem modChannel_doors (c : ChanId) (f : Channel → Channel) : (s.modChannel c f).doors = s.doors := rfl
@[simp] theorem modChannel_door (c : ChanId) (f : Channel → Channel) : (s.modChannel c f).door = s.door := rfl
@[simp] theorem modChannel_warnings (c : ChanId) (f : Channel → Channel) : (s.modChannel c f).warnings = s.warnings := rfl
@[simp] theorem modChannel_warning (c : ChanId) (f : Channel → Channel) : (s.modChannel c f).warning = s.warning := rfl
@[simp] theorem modChannel_ramps (c : ChanId) (f : Channel → Channel) : (s.modChannel c f).ramps = s.ramps := rfl
@[simp] theorem modChannel_ramp (c : ChanId) (f : Channel → Channel) : (s.modChannel c f).ramp = s.ramp := rfl
@[simp] theorem modChannel_permits (c : ChanId) (f : Channel → Channel) : (s.modChannel c f).permits = s.permits := rfl
@[simp] theorem modChannel_permit (c : ChanId) (f : Channel → Channel) : (s.modChannel c f).permit = s.permit := rfl
@[simp] theorem modChannel_calls (c : ChanId) (f : Channel → Channel) : (s.modChannel c f).calls = s.calls := rfl
@[simp] theorem modChannel_pending (c : ChanId) (f : Channel → Channel) : (s.modChannel c f).pending = s.pending := rfl
@[simp] theorem modChannel_freeSeq (c : ChanId) (f : Channel → Channel) : (s.modChannel c f).freeSeq = s.freeSeq := rfl

/-! ### `modChime` -/

theorem modChime_chime (k j : ChimeId) (f : ChimeCfg → ChimeCfg) :
    (s.modChime k f).chime j = if j = k then f (s.chime j) else s.chime j := upd_get _ _ _ _
@[simp] theorem modChime_chime_self (k : ChimeId) (f : ChimeCfg → ChimeCfg) : (s.modChime k f).chime k = f (s.chime k) := by
  rw [modChime_chime, if_pos rfl]
theorem modChime_chime_ne {k j : ChimeId} (h : j ≠ k) (f : ChimeCfg → ChimeCfg) : (s.modChime k f).chime j = s.chime j := by
  rw [modChime_chime, if_neg h]
@[simp] theorem modChime_trunk (k : ChimeId) (f : ChimeCfg → ChimeCfg) : (s.modChime k f).trunk = s.trunk := rfl
@[simp] theorem modChime_unit (k : ChimeId) (f : ChimeCfg → ChimeCfg) : (s.modChime k f).unit = s.unit := rfl
@[simp] theorem modChime_branches (k : ChimeId) (f : ChimeCfg → ChimeCfg) : (s.modChime k f).branches = s.branches := rfl
@[simp] theorem modChime_branch (k : ChimeId) (f : ChimeCfg → ChimeCfg) : (s.modChime k f).branch = s.branch := rfl
@[simp] theorem modChime_positions (k : ChimeId) (f : ChimeCfg → ChimeCfg) : (s.modChime k f).positions = s.positions := rfl
@[simp] theorem modChime_position (k : ChimeId) (f : ChimeCfg → ChimeCfg) : (s.modChime k f).position = s.position := rfl
@[simp] theorem modChime_slots (k : ChimeId) (f : ChimeCfg → ChimeCfg) : (s.modChime k f).slots = s.slots := rfl
@[simp] theorem modChime_slot (k : ChimeId) (f : ChimeCfg → ChimeCfg) : (s.modChime k f).slot = s.slot := rfl
@[simp] theorem modChime_pins (k : ChimeId) (f : ChimeCfg → ChimeCfg) : (s.modChime k f).pins = s.pins := rfl
@[simp] theorem modChime_pin (k : ChimeId) (f : ChimeCfg → ChimeCfg) : (s.modChime k f).pin = s.pin := rfl
@[simp] theorem modChime_account (k : ChimeId) (f : ChimeCfg → ChimeCfg) : (s.modChime k f).account = s.account := rfl
@[simp] theorem modChime_channels (k : ChimeId) (f : ChimeCfg → ChimeCfg) : (s.modChime k f).channels = s.channels := rfl
@[simp] theorem modChime_channel (k : ChimeId) (f : ChimeCfg → ChimeCfg) : (s.modChime k f).channel = s.channel := rfl
@[simp] theorem modChime_player (k : ChimeId) (f : ChimeCfg → ChimeCfg) : (s.modChime k f).player = s.player := rfl
@[simp] theorem modChime_zones (k : ChimeId) (f : ChimeCfg → ChimeCfg) : (s.modChime k f).zones = s.zones := rfl
@[simp] theorem modChime_zone (k : ChimeId) (f : ChimeCfg → ChimeCfg) : (s.modChime k f).zone = s.zone := rfl
@[simp] theorem modChime_doors (k : ChimeId) (f : ChimeCfg → ChimeCfg) : (s.modChime k f).doors = s.doors := rfl
@[simp] theorem modChime_door (k : ChimeId) (f : ChimeCfg → ChimeCfg) : (s.modChime k f).door = s.door := rfl
@[simp] theorem modChime_warnings (k : ChimeId) (f : ChimeCfg → ChimeCfg) : (s.modChime k f).warnings = s.warnings := rfl
@[simp] theorem modChime_warning (k : ChimeId) (f : ChimeCfg → ChimeCfg) : (s.modChime k f).warning = s.warning := rfl
@[simp] theorem modChime_ramps (k : ChimeId) (f : ChimeCfg → ChimeCfg) : (s.modChime k f).ramps = s.ramps := rfl
@[simp] theorem modChime_ramp (k : ChimeId) (f : ChimeCfg → ChimeCfg) : (s.modChime k f).ramp = s.ramp := rfl
@[simp] theorem modChime_permits (k : ChimeId) (f : ChimeCfg → ChimeCfg) : (s.modChime k f).permits = s.permits := rfl
@[simp] theorem modChime_permit (k : ChimeId) (f : ChimeCfg → ChimeCfg) : (s.modChime k f).permit = s.permit := rfl
@[simp] theorem modChime_calls (k : ChimeId) (f : ChimeCfg → ChimeCfg) : (s.modChime k f).calls = s.calls := rfl
@[simp] theorem modChime_pending (k : ChimeId) (f : ChimeCfg → ChimeCfg) : (s.modChime k f).pending = s.pending := rfl
@[simp] theorem modChime_freeSeq (k : ChimeId) (f : ChimeCfg → ChimeCfg) : (s.modChime k f).freeSeq = s.freeSeq := rfl

/-! ### `modPlayer` -/

@[simp] theorem modPlayer_player (f : Player → Player) : (s.modPlayer f).player = f s.player := rfl
@[simp] theorem modPlayer_trunk (f : Player → Player) : (s.modPlayer f).trunk = s.trunk := rfl
@[simp] theorem modPlayer_unit (f : Player → Player) : (s.modPlayer f).unit = s.unit := rfl
@[simp] theorem modPlayer_branches (f : Player → Player) : (s.modPlayer f).branches = s.branches := rfl
@[simp] theorem modPlayer_branch (f : Player → Player) : (s.modPlayer f).branch = s.branch := rfl
@[simp] theorem modPlayer_positions (f : Player → Player) : (s.modPlayer f).positions = s.positions := rfl
@[simp] theorem modPlayer_position (f : Player → Player) : (s.modPlayer f).position = s.position := rfl
@[simp] theorem modPlayer_slots (f : Player → Player) : (s.modPlayer f).slots = s.slots := rfl
@[simp] theorem modPlayer_slot (f : Player → Player) : (s.modPlayer f).slot = s.slot := rfl
@[simp] theorem modPlayer_pins (f : Player → Player) : (s.modPlayer f).pins = s.pins := rfl
@[simp] theorem modPlayer_pin (f : Player → Player) : (s.modPlayer f).pin = s.pin := rfl
@[simp] theorem modPlayer_account (f : Player → Player) : (s.modPlayer f).account = s.account := rfl
@[simp] theorem modPlayer_channels (f : Player → Player) : (s.modPlayer f).channels = s.channels := rfl
@[simp] theorem modPlayer_channel (f : Player → Player) : (s.modPlayer f).channel = s.channel := rfl
@[simp] theorem modPlayer_chimes (f : Player → Player) : (s.modPlayer f).chimes = s.chimes := rfl
@[simp] theorem modPlayer_chime (f : Player → Player) : (s.modPlayer f).chime = s.chime := rfl
@[simp] theorem modPlayer_zones (f : Player → Player) : (s.modPlayer f).zones = s.zones := rfl
@[simp] theorem modPlayer_zone (f : Player → Player) : (s.modPlayer f).zone = s.zone := rfl
@[simp] theorem modPlayer_doors (f : Player → Player) : (s.modPlayer f).doors = s.doors := rfl
@[simp] theorem modPlayer_door (f : Player → Player) : (s.modPlayer f).door = s.door := rfl
@[simp] theorem modPlayer_warnings (f : Player → Player) : (s.modPlayer f).warnings = s.warnings := rfl
@[simp] theorem modPlayer_warning (f : Player → Player) : (s.modPlayer f).warning = s.warning := rfl
@[simp] theorem modPlayer_ramps (f : Player → Player) : (s.modPlayer f).ramps = s.ramps := rfl
@[simp] theorem modPlayer_ramp (f : Player → Player) : (s.modPlayer f).ramp = s.ramp := rfl
@[simp] theorem modPlayer_permits (f : Player → Player) : (s.modPlayer f).permits = s.permits := rfl
@[simp] theorem modPlayer_permit (f : Player → Player) : (s.modPlayer f).permit = s.permit := rfl
@[simp] theorem modPlayer_calls (f : Player → Player) : (s.modPlayer f).calls = s.calls := rfl
@[simp] theorem modPlayer_pending (f : Player → Player) : (s.modPlayer f).pending = s.pending := rfl
@[simp] theorem modPlayer_freeSeq (f : Player → Player) : (s.modPlayer f).freeSeq = s.freeSeq := rfl

/-! ### `modZone` -/

theorem modZone_zone (z j : ZoneId) (f : Zone → Zone) :
    (s.modZone z f).zone j = if j = z then f (s.zone j) else s.zone j := upd_get _ _ _ _
@[simp] theorem modZone_zone_self (z : ZoneId) (f : Zone → Zone) : (s.modZone z f).zone z = f (s.zone z) := by
  rw [modZone_zone, if_pos rfl]
theorem modZone_zone_ne {z j : ZoneId} (h : j ≠ z) (f : Zone → Zone) : (s.modZone z f).zone j = s.zone j := by
  rw [modZone_zone, if_neg h]
@[simp] theorem modZone_trunk (z : ZoneId) (f : Zone → Zone) : (s.modZone z f).trunk = s.trunk := rfl
@[simp] theorem modZone_unit (z : ZoneId) (f : Zone → Zone) : (s.modZone z f).unit = s.unit := rfl
@[simp] theorem modZone_branches (z : ZoneId) (f : Zone → Zone) : (s.modZone z f).branches = s.branches := rfl
@[simp] theorem modZone_branch (z : ZoneId) (f : Zone → Zone) : (s.modZone z f).branch = s.branch := rfl
@[simp] theorem modZone_positions (z : ZoneId) (f : Zone → Zone) : (s.modZone z f).positions = s.positions := rfl
@[simp] theorem modZone_position (z : ZoneId) (f : Zone → Zone) : (s.modZone z f).position = s.position := rfl
@[simp] theorem modZone_slots (z : ZoneId) (f : Zone → Zone) : (s.modZone z f).slots = s.slots := rfl
@[simp] theorem modZone_slot (z : ZoneId) (f : Zone → Zone) : (s.modZone z f).slot = s.slot := rfl
@[simp] theorem modZone_pins (z : ZoneId) (f : Zone → Zone) : (s.modZone z f).pins = s.pins := rfl
@[simp] theorem modZone_pin (z : ZoneId) (f : Zone → Zone) : (s.modZone z f).pin = s.pin := rfl
@[simp] theorem modZone_account (z : ZoneId) (f : Zone → Zone) : (s.modZone z f).account = s.account := rfl
@[simp] theorem modZone_channels (z : ZoneId) (f : Zone → Zone) : (s.modZone z f).channels = s.channels := rfl
@[simp] theorem modZone_channel (z : ZoneId) (f : Zone → Zone) : (s.modZone z f).channel = s.channel := rfl
@[simp] theorem modZone_chimes (z : ZoneId) (f : Zone → Zone) : (s.modZone z f).chimes = s.chimes := rfl
@[simp] theorem modZone_chime (z : ZoneId) (f : Zone → Zone) : (s.modZone z f).chime = s.chime := rfl
@[simp] theorem modZone_player (z : ZoneId) (f : Zone → Zone) : (s.modZone z f).player = s.player := rfl
@[simp] theorem modZone_doors (z : ZoneId) (f : Zone → Zone) : (s.modZone z f).doors = s.doors := rfl
@[simp] theorem modZone_door (z : ZoneId) (f : Zone → Zone) : (s.modZone z f).door = s.door := rfl
@[simp] theorem modZone_warnings (z : ZoneId) (f : Zone → Zone) : (s.modZone z f).warnings = s.warnings := rfl
@[simp] theorem modZone_warning (z : ZoneId) (f : Zone → Zone) : (s.modZone z f).warning = s.warning := rfl
@[simp] theorem modZone_ramps (z : ZoneId) (f : Zone → Zone) : (s.modZone z f).ramps = s.ramps := rfl
@[simp] theorem modZone_ramp (z : ZoneId) (f : Zone → Zone) : (s.modZone z f).ramp = s.ramp := rfl
@[simp] theorem modZone_permits (z : ZoneId) (f : Zone → Zone) : (s.modZone z f).permits = s.permits := rfl
@[simp] theorem modZone_permit (z : ZoneId) (f : Zone → Zone) : (s.modZone z f).permit = s.permit := rfl
@[simp] theorem modZone_calls (z : ZoneId) (f : Zone → Zone) : (s.modZone z f).calls = s.calls := rfl
@[simp] theorem modZone_pending (z : ZoneId) (f : Zone → Zone) : (s.modZone z f).pending = s.pending := rfl
@[simp] theorem modZone_freeSeq (z : ZoneId) (f : Zone → Zone) : (s.modZone z f).freeSeq = s.freeSeq := rfl

/-! ### `modDoor` -/

theorem modDoor_door (d j : DoorId) (f : Door → Door) :
    (s.modDoor d f).door j = if j = d then f (s.door j) else s.door j := upd_get _ _ _ _
@[simp] theorem modDoor_door_self (d : DoorId) (f : Door → Door) : (s.modDoor d f).door d = f (s.door d) := by
  rw [modDoor_door, if_pos rfl]
theorem modDoor_door_ne {d j : DoorId} (h : j ≠ d) (f : Door → Door) : (s.modDoor d f).door j = s.door j := by
  rw [modDoor_door, if_neg h]
@[simp] theorem modDoor_trunk (d : DoorId) (f : Door → Door) : (s.modDoor d f).trunk = s.trunk := rfl
@[simp] theorem modDoor_unit (d : DoorId) (f : Door → Door) : (s.modDoor d f).unit = s.unit := rfl
@[simp] theorem modDoor_branches (d : DoorId) (f : Door → Door) : (s.modDoor d f).branches = s.branches := rfl
@[simp] theorem modDoor_branch (d : DoorId) (f : Door → Door) : (s.modDoor d f).branch = s.branch := rfl
@[simp] theorem modDoor_positions (d : DoorId) (f : Door → Door) : (s.modDoor d f).positions = s.positions := rfl
@[simp] theorem modDoor_position (d : DoorId) (f : Door → Door) : (s.modDoor d f).position = s.position := rfl
@[simp] theorem modDoor_slots (d : DoorId) (f : Door → Door) : (s.modDoor d f).slots = s.slots := rfl
@[simp] theorem modDoor_slot (d : DoorId) (f : Door → Door) : (s.modDoor d f).slot = s.slot := rfl
@[simp] theorem modDoor_pins (d : DoorId) (f : Door → Door) : (s.modDoor d f).pins = s.pins := rfl
@[simp] theorem modDoor_pin (d : DoorId) (f : Door → Door) : (s.modDoor d f).pin = s.pin := rfl
@[simp] theorem modDoor_account (d : DoorId) (f : Door → Door) : (s.modDoor d f).account = s.account := rfl
@[simp] theorem modDoor_channels (d : DoorId) (f : Door → Door) : (s.modDoor d f).channels = s.channels := rfl
@[simp] theorem modDoor_channel (d : DoorId) (f : Door → Door) : (s.modDoor d f).channel = s.channel := rfl
@[simp] theorem modDoor_chimes (d : DoorId) (f : Door → Door) : (s.modDoor d f).chimes = s.chimes := rfl
@[simp] theorem modDoor_chime (d : DoorId) (f : Door → Door) : (s.modDoor d f).chime = s.chime := rfl
@[simp] theorem modDoor_player (d : DoorId) (f : Door → Door) : (s.modDoor d f).player = s.player := rfl
@[simp] theorem modDoor_zones (d : DoorId) (f : Door → Door) : (s.modDoor d f).zones = s.zones := rfl
@[simp] theorem modDoor_zone (d : DoorId) (f : Door → Door) : (s.modDoor d f).zone = s.zone := rfl
@[simp] theorem modDoor_warnings (d : DoorId) (f : Door → Door) : (s.modDoor d f).warnings = s.warnings := rfl
@[simp] theorem modDoor_warning (d : DoorId) (f : Door → Door) : (s.modDoor d f).warning = s.warning := rfl
@[simp] theorem modDoor_ramps (d : DoorId) (f : Door → Door) : (s.modDoor d f).ramps = s.ramps := rfl
@[simp] theorem modDoor_ramp (d : DoorId) (f : Door → Door) : (s.modDoor d f).ramp = s.ramp := rfl
@[simp] theorem modDoor_permits (d : DoorId) (f : Door → Door) : (s.modDoor d f).permits = s.permits := rfl
@[simp] theorem modDoor_permit (d : DoorId) (f : Door → Door) : (s.modDoor d f).permit = s.permit := rfl
@[simp] theorem modDoor_calls (d : DoorId) (f : Door → Door) : (s.modDoor d f).calls = s.calls := rfl
@[simp] theorem modDoor_pending (d : DoorId) (f : Door → Door) : (s.modDoor d f).pending = s.pending := rfl
@[simp] theorem modDoor_freeSeq (d : DoorId) (f : Door → Door) : (s.modDoor d f).freeSeq = s.freeSeq := rfl

/-! ### `modWarning` -/

theorem modWarning_warning (z j : ZoneId) (f : Nat → Nat) :
    (s.modWarning z f).warning j = if j = z then f (s.warning j) else s.warning j := upd_get _ _ _ _
@[simp] theorem modWarning_warning_self (z : ZoneId) (f : Nat → Nat) : (s.modWarning z f).warning z = f (s.warning z) := by
  rw [modWarning_warning, if_pos rfl]
theorem modWarning_warning_ne {z j : ZoneId} (h : j ≠ z) (f : Nat → Nat) : (s.modWarning z f).warning j = s.warning j := by
  rw [modWarning_warning, if_neg h]
@[simp] theorem modWarning_trunk (z : ZoneId) (f : Nat → Nat) : (s.modWarning z f).trunk = s.trunk := rfl
@[simp] theorem modWarning_unit (z : ZoneId) (f : Nat → Nat) : (s.modWarning z f).unit = s.unit := rfl
@[simp] theorem modWarning_branches (z : ZoneId) (f : Nat → Nat) : (s.modWarning z f).branches = s.branches := rfl
@[simp] theorem modWarning_branch (z : ZoneId) (f : Nat → Nat) : (s.modWarning z f).branch = s.branch := rfl
@[simp] theorem modWarning_positions (z : ZoneId) (f : Nat → Nat) : (s.modWarning z f).positions = s.positions := rfl
@[simp] theorem modWarning_position (z : ZoneId) (f : Nat → Nat) : (s.modWarning z f).position = s.position := rfl
@[simp] theorem modWarning_slots (z : ZoneId) (f : Nat → Nat) : (s.modWarning z f).slots = s.slots := rfl
@[simp] theorem modWarning_slot (z : ZoneId) (f : Nat → Nat) : (s.modWarning z f).slot = s.slot := rfl
@[simp] theorem modWarning_pins (z : ZoneId) (f : Nat → Nat) : (s.modWarning z f).pins = s.pins := rfl
@[simp] theorem modWarning_pin (z : ZoneId) (f : Nat → Nat) : (s.modWarning z f).pin = s.pin := rfl
@[simp] theorem modWarning_account (z : ZoneId) (f : Nat → Nat) : (s.modWarning z f).account = s.account := rfl
@[simp] theorem modWarning_channels (z : ZoneId) (f : Nat → Nat) : (s.modWarning z f).channels = s.channels := rfl
@[simp] theorem modWarning_channel (z : ZoneId) (f : Nat → Nat) : (s.modWarning z f).channel = s.channel := rfl
@[simp] theorem modWarning_chimes (z : ZoneId) (f : Nat → Nat) : (s.modWarning z f).chimes = s.chimes := rfl
@[simp] theorem modWarning_chime (z : ZoneId) (f : Nat → Nat) : (s.modWarning z f).chime = s.chime := rfl
@[simp] theorem modWarning_player (z : ZoneId) (f : Nat → Nat) : (s.modWarning z f).player = s.player := rfl
@[simp] theorem modWarning_zones (z : ZoneId) (f : Nat → Nat) : (s.modWarning z f).zones = s.zones := rfl
@[simp] theorem modWarning_zone (z : ZoneId) (f : Nat → Nat) : (s.modWarning z f).zone = s.zone := rfl
@[simp] theorem modWarning_doors (z : ZoneId) (f : Nat → Nat) : (s.modWarning z f).doors = s.doors := rfl
@[simp] theorem modWarning_door (z : ZoneId) (f : Nat → Nat) : (s.modWarning z f).door = s.door := rfl
@[simp] theorem modWarning_ramps (z : ZoneId) (f : Nat → Nat) : (s.modWarning z f).ramps = s.ramps := rfl
@[simp] theorem modWarning_ramp (z : ZoneId) (f : Nat → Nat) : (s.modWarning z f).ramp = s.ramp := rfl
@[simp] theorem modWarning_permits (z : ZoneId) (f : Nat → Nat) : (s.modWarning z f).permits = s.permits := rfl
@[simp] theorem modWarning_permit (z : ZoneId) (f : Nat → Nat) : (s.modWarning z f).permit = s.permit := rfl
@[simp] theorem modWarning_calls (z : ZoneId) (f : Nat → Nat) : (s.modWarning z f).calls = s.calls := rfl
@[simp] theorem modWarning_pending (z : ZoneId) (f : Nat → Nat) : (s.modWarning z f).pending = s.pending := rfl
@[simp] theorem modWarning_freeSeq (z : ZoneId) (f : Nat → Nat) : (s.modWarning z f).freeSeq = s.freeSeq := rfl

/-! ### `modRamp` -/

theorem modRamp_ramp (r j : RampId) (f : Ramp → Ramp) :
    (s.modRamp r f).ramp j = if j = r then f (s.ramp j) else s.ramp j := upd_get _ _ _ _
@[simp] theorem modRamp_ramp_self (r : RampId) (f : Ramp → Ramp) : (s.modRamp r f).ramp r = f (s.ramp r) := by
  rw [modRamp_ramp, if_pos rfl]
theorem modRamp_ramp_ne {r j : RampId} (h : j ≠ r) (f : Ramp → Ramp) : (s.modRamp r f).ramp j = s.ramp j := by
  rw [modRamp_ramp, if_neg h]
@[simp] theorem modRamp_trunk (r : RampId) (f : Ramp → Ramp) : (s.modRamp r f).trunk = s.trunk := rfl
@[simp] theorem modRamp_unit (r : RampId) (f : Ramp → Ramp) : (s.modRamp r f).unit = s.unit := rfl
@[simp] theorem modRamp_branches (r : RampId) (f : Ramp → Ramp) : (s.modRamp r f).branches = s.branches := rfl
@[simp] theorem modRamp_branch (r : RampId) (f : Ramp → Ramp) : (s.modRamp r f).branch = s.branch := rfl
@[simp] theorem modRamp_positions (r : RampId) (f : Ramp → Ramp) : (s.modRamp r f).positions = s.positions := rfl
@[simp] theorem modRamp_position (r : RampId) (f : Ramp → Ramp) : (s.modRamp r f).position = s.position := rfl
@[simp] theorem modRamp_slots (r : RampId) (f : Ramp → Ramp) : (s.modRamp r f).slots = s.slots := rfl
@[simp] theorem modRamp_slot (r : RampId) (f : Ramp → Ramp) : (s.modRamp r f).slot = s.slot := rfl
@[simp] theorem modRamp_pins (r : RampId) (f : Ramp → Ramp) : (s.modRamp r f).pins = s.pins := rfl
@[simp] theorem modRamp_pin (r : RampId) (f : Ramp → Ramp) : (s.modRamp r f).pin = s.pin := rfl
@[simp] theorem modRamp_account (r : RampId) (f : Ramp → Ramp) : (s.modRamp r f).account = s.account := rfl
@[simp] theorem modRamp_channels (r : RampId) (f : Ramp → Ramp) : (s.modRamp r f).channels = s.channels := rfl
@[simp] theorem modRamp_channel (r : RampId) (f : Ramp → Ramp) : (s.modRamp r f).channel = s.channel := rfl
@[simp] theorem modRamp_chimes (r : RampId) (f : Ramp → Ramp) : (s.modRamp r f).chimes = s.chimes := rfl
@[simp] theorem modRamp_chime (r : RampId) (f : Ramp → Ramp) : (s.modRamp r f).chime = s.chime := rfl
@[simp] theorem modRamp_player (r : RampId) (f : Ramp → Ramp) : (s.modRamp r f).player = s.player := rfl
@[simp] theorem modRamp_zones (r : RampId) (f : Ramp → Ramp) : (s.modRamp r f).zones = s.zones := rfl
@[simp] theorem modRamp_zone (r : RampId) (f : Ramp → Ramp) : (s.modRamp r f).zone = s.zone := rfl
@[simp] theorem modRamp_doors (r : RampId) (f : Ramp → Ramp) : (s.modRamp r f).doors = s.doors := rfl
@[simp] theorem modRamp_door (r : RampId) (f : Ramp → Ramp) : (s.modRamp r f).door = s.door := rfl
@[simp] theorem modRamp_warnings (r : RampId) (f : Ramp → Ramp) : (s.modRamp r f).warnings = s.warnings := rfl
@[simp] theorem modRamp_warning (r : RampId) (f : Ramp → Ramp) : (s.modRamp r f).warning = s.warning := rfl
@[simp] theorem modRamp_permits (r : RampId) (f : Ramp → Ramp) : (s.modRamp r f).permits = s.permits := rfl
@[simp] theorem modRamp_permit (r : RampId) (f : Ramp → Ramp) : (s.modRamp r f).permit = s.permit := rfl
@[simp] theorem modRamp_calls (r : RampId) (f : Ramp → Ramp) : (s.modRamp r f).calls = s.calls := rfl
@[simp] theorem modRamp_pending (r : RampId) (f : Ramp → Ramp) : (s.modRamp r f).pending = s.pending := rfl
@[simp] theorem modRamp_freeSeq (r : RampId) (f : Ramp → Ramp) : (s.modRamp r f).freeSeq = s.freeSeq := rfl

/-! ### `modPermit` -/

theorem modPermit_permit (k j : PermitId) (f : PermitEntry → PermitEntry) :
    (s.modPermit k f).permit j = if j = k then f (s.permit j) else s.permit j := upd_get _ _ _ _
@[simp] theorem modPermit_permit_self (k : PermitId) (f : PermitEntry → PermitEntry) : (s.modPermit k f).permit k = f (s.permit k) := by
  rw [modPermit_permit, if_pos rfl]
theorem modPermit_permit_ne {k j : PermitId} (h : j ≠ k) (f : PermitEntry → PermitEntry) : (s.modPermit k f).permit j = s.permit j := by
  rw [modPermit_permit, if_neg h]
@[simp] theorem modPermit_trunk (k : PermitId) (f : PermitEntry → PermitEntry) : (s.modPermit k f).trunk = s.trunk := rfl
@[simp] theorem modPermit_unit (k : PermitId) (f : PermitEntry → PermitEntry) : (s.modPermit k f).unit = s.unit := rfl
@[simp] theorem modPermit_branches (k : PermitId) (f : PermitEntry → PermitEntry) : (s.modPermit k f).branches = s.branches := rfl
@[simp] theorem modPermit_branch (k : PermitId) (f : PermitEntry → PermitEntry) : (s.modPermit k f).branch = s.branch := rfl
@[simp] theorem modPermit_positions (k : PermitId) (f : PermitEntry → PermitEntry) : (s.modPermit k f).positions = s.positions := rfl
@[simp] theorem modPermit_position (k : PermitId) (f : PermitEntry → PermitEntry) : (s.modPermit k f).position = s.position := rfl
@[simp] theorem modPermit_slots (k : PermitId) (f : PermitEntry → PermitEntry) : (s.modPermit k f).slots = s.slots := rfl
@[simp] theorem modPermit_slot (k : PermitId) (f : PermitEntry → PermitEntry) : (s.modPermit k f).slot = s.slot := rfl
@[simp] theorem modPermit_pins (k : PermitId) (f : PermitEntry → PermitEntry) : (s.modPermit k f).pins = s.pins := rfl
@[simp] theorem modPermit_pin (k : PermitId) (f : PermitEntry → PermitEntry) : (s.modPermit k f).pin = s.pin := rfl
@[simp] theorem modPermit_account (k : PermitId) (f : PermitEntry → PermitEntry) : (s.modPermit k f).account = s.account := rfl
@[simp] theorem modPermit_channels (k : PermitId) (f : PermitEntry → PermitEntry) : (s.modPermit k f).channels = s.channels := rfl
@[simp] theorem modPermit_channel (k : PermitId) (f : PermitEntry → PermitEntry) : (s.modPermit k f).channel = s.channel := rfl
@[simp] theorem modPermit_chimes (k : PermitId) (f : PermitEntry → PermitEntry) : (s.modPermit k f).chimes = s.chimes := rfl
@[simp] theorem modPermit_chime (k : PermitId) (f : PermitEntry → PermitEntry) : (s.modPermit k f).chime = s.chime := rfl
@[simp] theorem modPermit_player (k : PermitId) (f : PermitEntry → PermitEntry) : (s.modPermit k f).player = s.player := rfl
@[simp] theorem modPermit_zones (k : PermitId) (f : PermitEntry → PermitEntry) : (s.modPermit k f).zones = s.zones := rfl
@[simp] theorem modPermit_zone (k : PermitId) (f : PermitEntry → PermitEntry) : (s.modPermit k f).zone = s.zone := rfl
@[simp] theorem modPermit_doors (k : PermitId) (f : PermitEntry → PermitEntry) : (s.modPermit k f).doors = s.doors := rfl
@[simp] theorem modPermit_door (k : PermitId) (f : PermitEntry → PermitEntry) : (s.modPermit k f).door = s.door := rfl
@[simp] theorem modPermit_warnings (k : PermitId) (f : PermitEntry → PermitEntry) : (s.modPermit k f).warnings = s.warnings := rfl
@[simp] theorem modPermit_warning (k : PermitId) (f : PermitEntry → PermitEntry) : (s.modPermit k f).warning = s.warning := rfl
@[simp] theorem modPermit_ramps (k : PermitId) (f : PermitEntry → PermitEntry) : (s.modPermit k f).ramps = s.ramps := rfl
@[simp] theorem modPermit_ramp (k : PermitId) (f : PermitEntry → PermitEntry) : (s.modPermit k f).ramp = s.ramp := rfl
@[simp] theorem modPermit_calls (k : PermitId) (f : PermitEntry → PermitEntry) : (s.modPermit k f).calls = s.calls := rfl
@[simp] theorem modPermit_pending (k : PermitId) (f : PermitEntry → PermitEntry) : (s.modPermit k f).pending = s.pending := rfl
@[simp] theorem modPermit_freeSeq (k : PermitId) (f : PermitEntry → PermitEntry) : (s.modPermit k f).freeSeq = s.freeSeq := rfl

/-! ### `modCalls` -/

@[simp] theorem modCalls_calls (f : CallUnit → CallUnit) : (s.modCalls f).calls = f s.calls := rfl
@[simp] theorem modCalls_trunk (f : CallUnit → CallUnit) : (s.modCalls f).trunk = s.trunk := rfl
@[simp] theorem modCalls_unit (f : CallUnit → CallUnit) : (s.modCalls f).unit = s.unit := rfl
@[simp] theorem modCalls_branches (f : CallUnit → CallUnit) : (s.modCalls f).branches = s.branches := rfl
@[simp] theorem modCalls_branch (f : CallUnit → CallUnit) : (s.modCalls f).branch = s.branch := rfl
@[simp] theorem modCalls_positions (f : CallUnit → CallUnit) : (s.modCalls f).positions = s.positions := rfl
@[simp] theorem modCalls_position (f : CallUnit → CallUnit) : (s.modCalls f).position = s.position := rfl
@[simp] theorem modCalls_slots (f : CallUnit → CallUnit) : (s.modCalls f).slots = s.slots := rfl
@[simp] theorem modCalls_slot (f : CallUnit → CallUnit) : (s.modCalls f).slot = s.slot := rfl
@[simp] theorem modCalls_pins (f : CallUnit → CallUnit) : (s.modCalls f).pins = s.pins := rfl
@[simp] theorem modCalls_pin (f : CallUnit → CallUnit) : (s.modCalls f).pin = s.pin := rfl
@[simp] theorem modCalls_account (f : CallUnit → CallUnit) : (s.modCalls f).account = s.account := rfl
@[simp] theorem modCalls_channels (f : CallUnit → CallUnit) : (s.modCalls f).channels = s.channels := rfl
@[simp] theorem modCalls_channel (f : CallUnit → CallUnit) : (s.modCalls f).channel = s.channel := rfl
@[simp] theorem modCalls_chimes (f : CallUnit → CallUnit) : (s.modCalls f).chimes = s.chimes := rfl
@[simp] theorem modCalls_chime (f : CallUnit → CallUnit) : (s.modCalls f).chime = s.chime := rfl
@[simp] theorem modCalls_player (f : CallUnit → CallUnit) : (s.modCalls f).player = s.player := rfl
@[simp] theorem modCalls_zones (f : CallUnit → CallUnit) : (s.modCalls f).zones = s.zones := rfl
@[simp] theorem modCalls_zone (f : CallUnit → CallUnit) : (s.modCalls f).zone = s.zone := rfl
@[simp] theorem modCalls_doors (f : CallUnit → CallUnit) : (s.modCalls f).doors = s.doors := rfl
@[simp] theorem modCalls_door (f : CallUnit → CallUnit) : (s.modCalls f).door = s.door := rfl
@[simp] theorem modCalls_warnings (f : CallUnit → CallUnit) : (s.modCalls f).warnings = s.warnings := rfl
@[simp] theorem modCalls_warning (f : CallUnit → CallUnit) : (s.modCalls f).warning = s.warning := rfl
@[simp] theorem modCalls_ramps (f : CallUnit → CallUnit) : (s.modCalls f).ramps = s.ramps := rfl
@[simp] theorem modCalls_ramp (f : CallUnit → CallUnit) : (s.modCalls f).ramp = s.ramp := rfl
@[simp] theorem modCalls_permits (f : CallUnit → CallUnit) : (s.modCalls f).permits = s.permits := rfl
@[simp] theorem modCalls_permit (f : CallUnit → CallUnit) : (s.modCalls f).permit = s.permit := rfl
@[simp] theorem modCalls_pending (f : CallUnit → CallUnit) : (s.modCalls f).pending = s.pending := rfl
@[simp] theorem modCalls_freeSeq (f : CallUnit → CallUnit) : (s.modCalls f).freeSeq = s.freeSeq := rfl

/-! ### The queue of commands and the free values -/

@[simp] theorem withPending_trunk (cs : List Instr) : (s.withPending cs).trunk = s.trunk := rfl
@[simp] theorem withPending_unit (cs : List Instr) : (s.withPending cs).unit = s.unit := rfl
@[simp] theorem withPending_branches (cs : List Instr) : (s.withPending cs).branches = s.branches := rfl
@[simp] theorem withPending_branch (cs : List Instr) : (s.withPending cs).branch = s.branch := rfl
@[simp] theorem withPending_positions (cs : List Instr) : (s.withPending cs).positions = s.positions := rfl
@[simp] theorem withPending_position (cs : List Instr) : (s.withPending cs).position = s.position := rfl
@[simp] theorem withPending_slots (cs : List Instr) : (s.withPending cs).slots = s.slots := rfl
@[simp] theorem withPending_slot (cs : List Instr) : (s.withPending cs).slot = s.slot := rfl
@[simp] theorem withPending_pins (cs : List Instr) : (s.withPending cs).pins = s.pins := rfl
@[simp] theorem withPending_pin (cs : List Instr) : (s.withPending cs).pin = s.pin := rfl
@[simp] theorem withPending_account (cs : List Instr) : (s.withPending cs).account = s.account := rfl
@[simp] theorem withPending_channels (cs : List Instr) : (s.withPending cs).channels = s.channels := rfl
@[simp] theorem withPending_channel (cs : List Instr) : (s.withPending cs).channel = s.channel := rfl
@[simp] theorem withPending_chimes (cs : List Instr) : (s.withPending cs).chimes = s.chimes := rfl
@[simp] theorem withPending_chime (cs : List Instr) : (s.withPending cs).chime = s.chime := rfl
@[simp] theorem withPending_player (cs : List Instr) : (s.withPending cs).player = s.player := rfl
@[simp] theorem withPending_zones (cs : List Instr) : (s.withPending cs).zones = s.zones := rfl
@[simp] theorem withPending_zone (cs : List Instr) : (s.withPending cs).zone = s.zone := rfl
@[simp] theorem withPending_doors (cs : List Instr) : (s.withPending cs).doors = s.doors := rfl
@[simp] theorem withPending_door (cs : List Instr) : (s.withPending cs).door = s.door := rfl
@[simp] theorem withPending_warnings (cs : List Instr) : (s.withPending cs).warnings = s.warnings := rfl
@[simp] theorem withPending_warning (cs : List Instr) : (s.withPending cs).warning = s.warning := rfl
@[simp] theorem withPending_ramps (cs : List Instr) : (s.withPending cs).ramps = s.ramps := rfl
@[simp] theorem withPending_ramp (cs : List Instr) : (s.withPending cs).ramp = s.ramp := rfl
@[simp] theorem withPending_permits (cs : List Instr) : (s.withPending cs).permits = s.permits := rfl
@[simp] theorem withPending_permit (cs : List Instr) : (s.withPending cs).permit = s.permit := rfl
@[simp] theorem withPending_calls (cs : List Instr) : (s.withPending cs).calls = s.calls := rfl
@[simp] theorem withPending_freeSeq (cs : List Instr) : (s.withPending cs).freeSeq = s.freeSeq := rfl
@[simp] theorem withPending_pending (cs : List Instr) : (s.withPending cs).pending = cs := rfl
@[simp] theorem drawFree_trunk : s.drawFree.2.trunk = s.trunk := rfl
@[simp] theorem drawFree_unit : s.drawFree.2.unit = s.unit := rfl
@[simp] theorem drawFree_branches : s.drawFree.2.branches = s.branches := rfl
@[simp] theorem drawFree_branch : s.drawFree.2.branch = s.branch := rfl
@[simp] theorem drawFree_positions : s.drawFree.2.positions = s.positions := rfl
@[simp] theorem drawFree_position : s.drawFree.2.position = s.position := rfl
@[simp] theorem drawFree_slots : s.drawFree.2.slots = s.slots := rfl
@[simp] theorem drawFree_slot : s.drawFree.2.slot = s.slot := rfl
@[simp] theorem drawFree_pins : s.drawFree.2.pins = s.pins := rfl
@[simp] theorem drawFree_pin : s.drawFree.2.pin = s.pin := rfl
@[simp] theorem drawFree_account : s.drawFree.2.account = s.account := rfl
@[simp] theorem drawFree_channels : s.drawFree.2.channels = s.channels := rfl
@[simp] theorem drawFree_channel : s.drawFree.2.channel = s.channel := rfl
@[simp] theorem drawFree_chimes : s.drawFree.2.chimes = s.chimes := rfl
@[simp] theorem drawFree_chime : s.drawFree.2.chime = s.chime := rfl
@[simp] theorem drawFree_player : s.drawFree.2.player = s.player := rfl
@[simp] theorem drawFree_zones : s.drawFree.2.zones = s.zones := rfl
@[simp] theorem drawFree_zone : s.drawFree.2.zone = s.zone := rfl
@[simp] theorem drawFree_doors : s.drawFree.2.doors = s.doors := rfl
@[simp] theorem drawFree_door : s.drawFree.2.door = s.door := rfl
@[simp] theorem drawFree_warnings : s.drawFree.2.warnings = s.warnings := rfl
@[simp] theorem drawFree_warning : s.drawFree.2.warning = s.warning := rfl
@[simp] theorem drawFree_ramps : s.drawFree.2.ramps = s.ramps := rfl
@[simp] theorem drawFree_ramp : s.drawFree.2.ramp = s.ramp := rfl
@[simp] theorem drawFree_permits : s.drawFree.2.permits = s.permits := rfl
@[simp] theorem drawFree_permit : s.drawFree.2.permit = s.permit := rfl
@[simp] theorem drawFree_calls : s.drawFree.2.calls = s.calls := rfl
@[simp] theorem drawFree_pending : s.drawFree.2.pending = s.pending := rfl

end State

end Sys2Proof.Machine
end

