-- ==== Sys2Proof/Laws/Effects.lean ====
section
/-! SUPPORT. What an operation can do, said once: a list of small changes of named parts of the state. `Eff K s t` says that
`t` comes from `s` by changes of parts in `K`; what holds of every such change holds of the operation. -/

namespace Sys2Proof.Machine

open State

/-- The parts of the state that a small change can touch. -/
inductive Part
  | events | drain | reply | lock | junction | trunk | free
  | settle
  | dropDrive (r : RampId) | dropFor (f : PinFunction) | dropPin (p : PinId)
  | sweep | addDrive (r : RampId) | addFor (f : PinFunction) | addPin (p : PinId)
  | runs | motion | grants | player | calls | warnings
  | door (d : DoorId) | ramp (r : RampId) | zone (z : ZoneId) | pin (p : PinId)
  | position (n : PosId) | branch (b : BranchId) | slot (i : SlotId)
  | block (k : BlockId)
  | doorCfg (d : DoorId) | rampCfg (r : RampId) | zoneCfg (z : ZoneId) | chimeCfg (k : ChimeId) | permitCfg (k : PermitId)
  | route (i : SlotId)
  | pinCfg (p : PinId) | channelCfg (c : ChanId) | positionCfg (n : PosId) | branchCfg (b : BranchId)

/-- The claims of an account by their claimants, without their lists. -/
def Account.standingOf (a : Account) (c : Claimant) : Bool := (a.find c).isSome

/-- A claimant has at most one claim, no two claims have one age, and the pending list is ordered (R85, R86). -/
structure Account.Ordered (a : Account) : Prop where
  claimants : ((a.granted ++ a.pending).map Claim.claimant).Nodup
  ages : ((a.granted ++ a.pending).map Claim.age).Nodup
  young : ∀ c ∈ a.granted ++ a.pending, c.age < a.nextAge
  sorted : a.pending.Pairwise fun c d => c.before d = true

/-- A settled account: the same claims stand in order, and the budget is kept. -/
structure Settled (budget : Nat) (a b : Account) : Prop where
  stands : ∀ c, b.standingOf c = a.standingOf c
  sum : unitsOf a.granted ≤ budget → unitsOf b.granted ≤ budget
  ordered : a.Ordered → b.Ordered

/-- One small change of a part. -/
inductive Change : Part → State → State → Prop
  | post (s : State) (k : EventKind) (n : Nat) (w : Word) : Change .events s (s.post k n w)
  | drain (s : State) (n : Nat) : Change .drain s (s.drainEvents n)
  | wipe (s : State) : Change .drain s (restartUnit s)
  | reply (s : State) (r : Option Reply) : Change .reply s (s.modUnit fun u => { u with reply := r })
  | lock (s : State) : Change .lock s (s.modUnit fun u => { u with lock := true })
  | junction (s : State) (j : JunctionCfg) (hb : s.unit.lock = true → j.loadBudget = s.unit.junction.loadBudget)
      (hg : unitsOf s.account.granted ≤ j.loadBudget) : Change .junction s (s.modUnit fun u => { u with junction := j })
  | trunk (s : State) (f : Trunk → Trunk) : Change .trunk s (s.modTrunk f)
  | free (s : State) : Change .free s s.drawFree.2
  | settle (s : State) (a : Account) (h : Settled s.unit.junction.loadBudget s.account a) :
      Change .settle s (s.modAccount fun _ => a)
  | dropDrive (s : State) (r : RampId) : Change (.dropDrive r) s (s.modAccount (·.drop (driveClaimant r)))
  | dropFor (s : State) (f : PinFunction) (p : PinId) (h : s.pinOf f = some p) :
      Change (.dropFor f) s (s.modAccount (·.drop (pinClaimant p)))
  | dropPin (s : State) (p : PinId) : Change (.dropPin p) s (s.modAccount (·.drop (pinClaimant p)))
  | sweep (s : State) (keep : Claim → Bool) : Change .sweep s
      (s.modAccount fun a => { a with granted := a.granted.filter keep, pending := a.pending.filter keep })
  | addDrive (s : State) (r : RampId) (cls : ClaimClass) (n : Nat) (h : s.account.find (driveClaimant r) = none) :
      Change (.addDrive r) s (s.modAccount (·.add (driveClaimant r) cls n))
  | addFor (s : State) (f : PinFunction) (p : PinId) (h : s.pinOf f = some p) (cls : ClaimClass) (n : Nat)
      (hn : s.account.find (pinClaimant p) = none) : Change (.addFor f) s (s.modAccount (·.add (pinClaimant p) cls n))
  | addPin (s : State) (p : PinId) (cls : ClaimClass) (n : Nat) (h : s.account.find (pinClaimant p) = none) :
      Change (.addPin p) s (s.modAccount (·.add (pinClaimant p) cls n))
  | run (s : State) (c : ChanId) (f : ChannelRun → ChannelRun) (h : s.channel c = .reset → f .stopped = .stopped) :
      Change .runs s (s.modChannel c fun x => { x with run := f x.run })
  | motion (s : State) (r : RampId) (f : Ramp → Ramp) (ha : (s.ramp r).state.isActive = true)
      (h : ∀ x, (f x).cfg = x.cfg ∧ (f x).cmdDisabled = x.cmdDisabled ∧ (f x).lastToggle = x.lastToggle ∧
        (f x).speed = x.speed) : Change .motion s (s.modRamp r f)
  | opened (s : State) (d : DoorId) (h : (s.door d).state = .reopening) (hl : s.openLimit d = true) :
      Change .grants s (s.modDoor d fun x => { x with state := .opened, reason := .limit, timer := none })
  | pulse (s : State) (d : DoorId) (h : (s.door d).state = .releasing) (ht : (s.door d).timer = none) :
      Change .grants s (s.modDoor d fun x => { x with timer := ms x.cfg.pulse })
  | player (s : State) (f : Player → Player) : Change .player s (s.modPlayer f)
  | calls (s : State) (f : CallUnit → CallUnit) (h : ∀ x, (f x).blocks = x.blocks) : Change .calls s (s.modCalls f)
  | block (s : State) (k : BlockId) (f : SignBlock → SignBlock) : Change (.block k) s (s.modBlock k f)
  | warning (s : State) (z : ZoneId) (f : Nat → Nat) : Change .warnings s (s.modWarning z f)
  | door (s : State) (d : DoorId) (f : Door → Door) (h : ∀ x, (f x).cfg = x.cfg) : Change (.door d) s (s.modDoor d f)
  | ramp (s : State) (r : RampId) (f : Ramp → Ramp) (h : ∀ x, (f x).cfg = x.cfg) : Change (.ramp r) s (s.modRamp r f)
  | zone (s : State) (z : ZoneId) (f : Zone → Zone) (h : ∀ x, (f x).cfg = x.cfg) : Change (.zone z) s (s.modZone z f)
  | pin (s : State) (p : PinId) (f : Pin → Pin) (h : ∀ x, (f x).cfg = x.cfg) : Change (.pin p) s (s.modPin p f)
  | position (s : State) (n : PosId) (f : Position → Position) (h : ∀ x, (f x).cfg = x.cfg) :
      Change (.position n) s (s.modPosition n f)
  | branch (s : State) (b : BranchId) (f : Branch → Branch) (h : ∀ x, (f x).cfg = x.cfg) :
      Change (.branch b) s (s.modBranch b f)
  | slot (s : State) (i : SlotId) (f : Slot → Slot) (h : ∀ x, (f x).entry = x.entry) : Change (.slot i) s (s.modSlot i f)
  | doorCfg (s : State) (d : DoorId) (c : DoorCfg) : Change (.doorCfg d) s (s.modDoor d fun x => { x with cfg := c })
  | rampCfg (s : State) (r : RampId) (c : RampCfg) : Change (.rampCfg r) s (s.modRamp r fun x => { x with cfg := c })
  | zoneCfg (s : State) (z : ZoneId) (c : ZoneCfg) : Change (.zoneCfg z) s (s.modZone z fun x => { x with cfg := c })
  | chimeCfg (s : State) (k : ChimeId) (c : ChimeCfg) : Change (.chimeCfg k) s (s.modChime k fun _ => c)
  | permitCfg (s : State) (k : PermitId) (e : PermitEntry) : Change (.permitCfg k) s (s.modPermit k fun _ => e)
  | route (s : State) (i : SlotId) (f : Slot → Slot) : Change (.route i) s (s.modSlot i f)
  | pinCfg (s : State) (p : PinId) (f : Pin → Pin) (new : PinCfg) (h : s.unit.lock = false)
      (hf : ∀ x, (f x).cfg = new) (ht : s.functionTaken p new.function = false) : Change (.pinCfg p) s (s.modPin p f)
  | bind (s : State) (c : ChanId) (new : ChannelCfg) (h : s.unit.lock = false) (hc : s.channelConflict c new = none) :
      Change (.channelCfg c) s (bindChannel c new s)
  | retime (s : State) (c : ChanId) (new : ChannelCfg) (r : ChannelRun → ChannelRun) (h : s.unit.lock = false)
      (hc : s.channelConflict c new = none) (hb : new.binding = (s.channel c).cfg.binding) :
      Change (.channelCfg c) s (s.modChannel c fun x => ⟨new, r x.run⟩)
  | positionCfg (s : State) (n : PosId) (f : Position → Position) (h : s.unit.lock = false) :
      Change (.positionCfg n) s (s.modPosition n f)
  | branchCfg (s : State) (b : BranchId) (c : BranchCfg) (h : s.unit.lock = false) :
      Change (.branchCfg b) s (s.modBranch b fun x => { x with cfg := c })

/-- `t` comes from `s` by changes of parts in `K`. -/
inductive Eff (K : Part → Prop) (s : State) : State → Prop
  | refl : Eff K s s
  | step {t u : State} {p : Part} (h : Eff K s t) (hp : K p) (hc : Change p t u) : Eff K s u

namespace Eff

variable {K : Part → Prop} {s0 s : State}

theorem trans {t : State} (h : Eff K s0 s) (h' : Eff K s t) : Eff K s0 t := by
  induction h' with
  | refl => exact h
  | step _ hp hc ih => exact ih.step hp hc

theorem mono {J : Part → Prop} (hJ : ∀ p, J p → K p) (h : Eff J s0 s) : Eff K s0 s := by
  induction h with
  | refl => exact .refl
  | step _ hp hc ih => exact ih.step (hJ _ hp) hc

/-- What every change of a part in `K` keeps is kept. -/
theorem keeps (P : State → Prop) (hP : ∀ p t u, K p → Change p t u → P t → P u) (h : Eff K s0 s) (h0 : P s0) : P s := by
  induction h with
  | refl => exact h0
  | step _ hp hc ih => exact hP _ _ _ hp hc ih

theorem foldl {α : Type} (g : State → α → State) (l : List α) (hg : ∀ s x, Eff K s0 s → Eff K s0 (g s x))
    (h : Eff K s0 s) : Eff K s0 (l.foldl g s) := by
  induction l generalizing s with
  | nil => exact h
  | cons x xs ih => exact ih (hg s x h)

end Eff

end Sys2Proof.Machine
end

