-- ==== Sys2Proof/Laws/Load.lean ====
section
/-! SUPPORT. The grant pass: it keeps every claim and, if the granted units fit the budget, they fit it still (R86 to R88). -/

namespace Sys2Proof.Machine

theorem any_insertClaim (f : Claim → Bool) (c : Claim) (l : List Claim) :
    (insertClaim c l).any f = (f c || l.any f) := by
  induction l with
  | nil => simp [insertClaim]
  | cons d ds ih =>
    unfold insertClaim
    split
    · simp
    · simp [ih, Bool.or_left_comm]

theorem mem_newestOf {can : Claim → Bool} {l : List Claim} {c : Claim} (h : newestOf can l = some c) : c ∈ l := by
  induction l generalizing c with
  | nil => simp [newestOf] at h
  | cons d ds ih =>
    unfold newestOf at h
    split at h
    · rename_i b hb
      split at h
      · simp_all
      · cases h; exact .tail _ (ih hb)
    · split at h
      · simp_all
      · simp at h

theorem unitsOf_filter (f : Claim → Bool) (l : List Claim) : unitsOf (l.filter f) ≤ unitsOf l := by
  induction l with
  | nil => simp
  | cons d ds ih =>
    unfold unitsOf at *
    rw [List.filter_cons]
    split
    · simpa using ih
    · simp at ih ⊢; omega

theorem unitsOf_without (c : Claimant) (l : List Claim) : unitsOf (without c l) ≤ unitsOf l := unitsOf_filter _ l

theorem unitsOf_append (l m : List Claim) : unitsOf (l ++ m) = unitsOf l + unitsOf m := by simp [unitsOf]

theorem insertClaim_perm (c : Claim) (l : List Claim) : (insertClaim c l).Perm (c :: l) := by
  induction l with
  | nil => exact .refl _
  | cons d ds ih =>
    unfold insertClaim
    split
    · exact .refl _
    · exact ((List.Perm.cons d ih).trans (.swap _ _ _))

theorem without_perm {c : Claim} {l : List Claim} (hc : c ∈ l) (hn : (l.map Claim.claimant).Nodup) :
    l.Perm (c :: without c.claimant l) := by
  induction l with
  | nil => cases hc
  | cons d ds ih =>
    rw [List.map_cons, List.nodup_cons] at hn
    unfold without
    cases hc with
    | head =>
      rw [List.filter_cons]
      simp only [bne_self_eq_false, Bool.false_eq_true, if_false]
      refine .cons _ (.of_eq (Eq.symm (List.filter_eq_self.mpr fun x hx => ?_)))
      simp only [bne_iff_ne, ne_eq]
      exact fun e => hn.1 (e ▸ List.mem_map_of_mem hx)
    | tail _ hc =>
      have hd : (d.claimant != c.claimant) = true := by
        simp only [bne_iff_ne, ne_eq]
        exact fun e => hn.1 (e ▸ List.mem_map_of_mem hc)
      rw [List.filter_cons, if_pos hd]
      exact ((ih hc hn.2).cons d).trans (.swap _ _ _)

theorem Claim.before_trans {a b c : Claim} (h : a.before b = true) (h' : b.before c = true) : a.before c = true := by
  unfold Claim.before at *
  simp only [Bool.or_eq_true, Bool.and_eq_true, decide_eq_true_eq, beq_iff_eq] at *
  omega

theorem Claim.before_total {a b : Claim} (h : a.age ≠ b.age) (h' : a.before b ≠ true) : b.before a = true := by
  unfold Claim.before at *
  simp only [Bool.or_eq_true, Bool.and_eq_true, decide_eq_true_eq, beq_iff_eq, ne_eq] at *
  omega

/-- A claim of an age of its own joins an ordered list in order. -/
theorem insertClaim_sorted {c : Claim} {l : List Claim} (h : l.Pairwise fun c d => c.before d = true)
    (hc : ∀ d ∈ l, c.age ≠ d.age) : (insertClaim c l).Pairwise fun c d => c.before d = true := by
  induction l with
  | nil => simp [insertClaim]
  | cons d ds ih =>
    rw [List.pairwise_cons] at h
    unfold insertClaim
    split
    · rename_i hb
      refine List.pairwise_cons.mpr ⟨fun x hx => ?_, List.pairwise_cons.mpr h⟩
      cases hx with
      | head => exact hb
      | tail _ hx => exact Claim.before_trans hb (h.1 x hx)
    · rename_i hb
      refine List.pairwise_cons.mpr ⟨fun x hx => ?_, ih h.2 fun d hd => hc d (.tail _ hd)⟩
      rcases List.mem_cons.mp ((insertClaim_perm c ds).mem_iff.mp hx) with rfl | hx
      · exact Claim.before_total (hc d (.head _)) hb
      · exact h.1 x hx

namespace Account

theorem standingOf_eq (a : Account) (c : Claimant) :
    a.standingOf c = (a.granted.any (fun x => x.claimant == c) || a.pending.any fun x => x.claimant == c) := by
  unfold standingOf find
  rw [← List.any_append]
  induction a.granted ++ a.pending with
  | nil => rfl
  | cons d ds ih =>
    rw [List.find?_cons, List.any_cons]
    cases d.claimant == c
    · simpa using ih
    · rfl

theorem any_without (c e : Claimant) (l : List Claim) :
    (without c l).any (fun x => x.claimant == e) = (decide (e ≠ c) && l.any fun x => x.claimant == e) := by
  induction l with
  | nil => simp [without]
  | cons d ds ih =>
    unfold without at *
    rw [List.filter_cons]
    by_cases hd : d.claimant = c
    · by_cases he : e = c
      · simp_all
      · have : d.claimant ≠ e := fun h => he (h ▸ hd)
        simp_all
    · by_cases he : e = c
      · subst he; simp_all
      · simp_all

/-- A dropped claim is gone, and the others stand as they did. -/
theorem standingOf_drop (a : Account) (c e : Claimant) :
    (a.drop c).standingOf e = (decide (e ≠ c) && a.standingOf e) := by
  rw [standingOf_eq, standingOf_eq]
  simp only [drop, any_without, Bool.and_or_distrib_left]

/-- A new claim stands, and the others stand as they did. -/
theorem standingOf_add (a : Account) (c e : Claimant) (cls : ClaimClass) (n : Nat) :
    (a.add c cls n).standingOf e = (decide (e = c) || a.standingOf e) := by
  rw [standingOf_eq, standingOf_eq]
  simp only [add, any_insertClaim]
  have h : (c == e) = decide (e = c) := by
    by_cases he : e = c
    · subst he; simp
    · simp [he, Ne.symm he]
  rw [h, Bool.or_left_comm]


/-- Two accounts with the same claims but for their shed marks, in other lists. -/
theorem Ordered.of_perm {a b : Account} (h : a.Ordered)
    (hp : ((b.granted ++ b.pending).map fun c => (c.claimant, c.age)).Perm
      ((a.granted ++ a.pending).map fun c => (c.claimant, c.age)))
    (hn : a.nextAge ≤ b.nextAge) (hs : b.pending.Pairwise fun c d => c.before d = true) : b.Ordered := by
  have h1 := hp.map Prod.fst
  have h2 := hp.map Prod.snd
  simp only [List.map_map] at h1 h2
  refine ⟨(h1.nodup_iff).mpr h.claimants, (h2.nodup_iff).mpr h.ages, fun c hc => ?_, hs⟩
  obtain ⟨d, hd, e⟩ := List.mem_map.mp (h2.mem_iff.mp (List.mem_map_of_mem hc))
  have e' : d.age = c.age := e
  have := h.young d hd
  omega

theorem Ordered.sublist {a b : Account} (h : a.Ordered) (hg : b.granted.Sublist a.granted)
    (hp : b.pending.Sublist a.pending) (hn : b.nextAge = a.nextAge) : b.Ordered := by
  have hs := hg.append hp
  exact ⟨h.claimants.sublist (hs.map _), h.ages.sublist (hs.map _), fun c hc => hn ▸ h.young c (hs.subset hc),
    h.sorted.sublist hp⟩

theorem ordered_drop {a : Account} (h : a.Ordered) (c : Claimant) : (a.drop c).Ordered :=
  h.sublist List.filter_sublist List.filter_sublist rfl

theorem ordered_add {a : Account} (h : a.Ordered) {c : Claimant} (hc : a.find c = none) (cls : ClaimClass) (n : Nat) :
    (a.add c cls n).Ordered := by
  have hp : (a.granted ++ (a.add c cls n).pending).Perm (⟨c, cls, n, a.nextAge, false⟩ :: (a.granted ++ a.pending)) :=
    ((insertClaim_perm _ _).append_left _).trans List.perm_middle
  refine ⟨(hp.map _).nodup_iff.mpr (List.nodup_cons.mpr ⟨fun hm => ?_, h.claimants⟩),
    (hp.map _).nodup_iff.mpr (List.nodup_cons.mpr ⟨fun hm => ?_, h.ages⟩), fun d hd => ?_,
    insertClaim_sorted h.sorted fun d hd => ?_⟩
  · obtain ⟨d, hd, e⟩ := List.mem_map.mp hm
    have := List.find?_eq_none.mp hc d hd
    simp_all
  · obtain ⟨d, hd, e⟩ := List.mem_map.mp hm
    have := h.young d hd
    simp_all
  · show d.age < a.nextAge + 1
    rcases List.mem_cons.mp (hp.mem_iff.mp hd) with rfl | hd
    · exact Nat.lt_succ_self _
    · exact Nat.lt_succ_of_lt (h.young d hd)
  · exact fun e => absurd (h.young d (List.mem_append_right _ hd)) (by rw [← e]; exact Nat.lt_irrefl _)

theorem ordered_grant {a : Account} {h : Claim} {rest : List Claim} (ha : a.Ordered) (hp : a.pending = h :: rest) :
    Ordered { a with granted := a.granted ++ [{ h with shed := false }], pending := rest } := by
  have hs := ha.sorted
  rw [hp, List.pairwise_cons] at hs
  refine ha.of_perm ?_ (Nat.le_refl _) hs.2
  simp only [hp, List.map_append, List.map_cons, List.append_assoc, List.cons_append, List.nil_append]
  exact .refl _

theorem ordered_shed {a : Account} {c : Claim} (ha : a.Ordered) (hc : c ∈ a.granted) :
    Ordered { a with granted := without c.claimant a.granted, pending := insertClaim { c with shed := true } a.pending } := by
  have hn : (a.granted.map Claim.claimant).Nodup := by
    have := ha.claimants
    rw [List.map_append] at this
    exact this.sublist (List.sublist_append_left _ _)
  have hw := without_perm hc hn
  refine ha.of_perm ?_ (Nat.le_refl _) (insertClaim_sorted ha.sorted fun d hd e => ?_)
  · have h1 := ((insertClaim_perm { c with shed := true } a.pending).map fun c => (c.claimant, c.age)).append_left
      ((without c.claimant a.granted).map fun c => (c.claimant, c.age))
    have h2 := (hw.map fun c => (c.claimant, c.age)).append_right (a.pending.map fun c => (c.claimant, c.age))
    simp only [List.map_append]
    exact (h1.trans List.perm_middle).trans h2.symm
  · have := ha.ages
    rw [List.map_append, List.nodup_append] at this
    exact this.2.2 _ (List.mem_map_of_mem hc) _ (List.mem_map_of_mem hd) e

/-- What a grant pass leaves of an account. -/
theorem pass_settled (budget : Nat) (can : Claim → Bool) (n : Nat) (a : Account) :
    Settled budget a (pass budget can n a).1 := by
  induction n generalizing a with
  | zero => exact ⟨fun _ => rfl, id, id⟩
  | succ n ih =>
    unfold pass
    split
    · exact ⟨fun _ => rfl, id, id⟩
    · rename_i h rest hp
      split
      · rename_i hfit
        have k := ih { a with granted := a.granted ++ [{ h with shed := false }], pending := rest }
        refine ⟨fun c => ?_, fun _ => k.sum ?_, fun ha => k.ordered (ordered_grant ha hp)⟩
        · rw [k.stands, standingOf_eq, standingOf_eq, hp]
          simp [Bool.or_assoc]
        · simpa [unitsOf] using hfit
      · split
        · split
          · exact ⟨fun _ => rfl, id, id⟩
          · rename_i c hc
            have hm := mem_newestOf hc
            have k := ih { a with granted := without c.claimant a.granted,
                                  pending := insertClaim { c with shed := true } (h :: rest) }
            refine ⟨fun e => ?_, fun hs => k.sum (Nat.le_trans (unitsOf_without _ _) hs),
              fun ha => k.ordered (hp ▸ ordered_shed ha hm)⟩
            rw [k.stands, standingOf_eq, standingOf_eq, hp]
            simp only [any_without, any_insertClaim]
            by_cases he : e = c.claimant
            · subst he
              have : a.granted.any (fun x => x.claimant == c.claimant) = true :=
                List.any_eq_true.mpr ⟨c, hm, by simp⟩
              simp [this]
            · have : (c.claimant == e) = false := by simpa using Ne.symm he
              simp [this, he]
        · exact ⟨fun _ => rfl, id, id⟩

theorem unitsOf_drop (a : Account) (c : Claimant) : unitsOf (a.drop c).granted ≤ unitsOf a.granted :=
  unitsOf_without _ _

end Account

end Sys2Proof.Machine
end

