-- ==== Sys2Proof/Laws/EffectsOfClaims.lean ====
section
/-! SUPPORT. What claims, grants, change notices and ramp motion can do (Machine/Load, Channels and Interlock). -/

namespace Sys2Proof.Machine

namespace Eff

open State

variable {K : Part → Prop} {s0 s : State}

/-! ### Small changes -/

theorem post (hK : K .events) (k : EventKind) (n : Nat) (w : Word) (h : Eff K s0 s) : Eff K s0 (s.post k n w) :=
  h.step hK (.post _ _ _ _)

theorem postZone (hK : K .events) (z : ZoneId) (c : ZoneCause) (h : Eff K s0 s) : Eff K s0 (s.postZone z c) :=
  post hK _ _ _ h

theorem postDoor (hK : K .events) (d : DoorId) (h : Eff K s0 s) : Eff K s0 (s.postDoor d) := post hK _ _ _ h

theorem postRamp (hK : K .events) (r : RampId) (h : Eff K s0 s) : Eff K s0 (s.postRamp r) := post hK _ _ _ h

theorem postLoad (hK : K .events) (n : LoadNotice) (h : Eff K s0 s) : Eff K s0 (s.postLoad n) := by
  unfold State.postLoad
  split
  · split
    · exact post hK _ _ _ h
    · exact h
  · exact post hK _ _ _ h

/-- A channel bound to a function is not unbound. -/
theorem chanOf_binding {b : Binding} {c : ChanId} (h : s.chanOf b = some c) : (s.channel c).cfg.binding = b :=
  by
  unfold State.chanOf at h
  exact eq_of_beq (List.find?_some (p := fun c => (s.channel c).cfg.binding == b) h)

theorem modRun (hK : K .runs) {b : Binding} (hb : b ≠ .none) (f : ChannelRun → ChannelRun) (h : Eff K s0 s) :
    Eff K s0 (s.modRun b f) := by
  unfold State.modRun
  split
  · rename_i c hc
    exact h.step hK (.run _ _ _ fun e => absurd (chanOf_binding hc) (by rw [e]; exact Ne.symm hb))
  · exact h

theorem modPlayer (hK : K .player) (f : Player → Player) (h : Eff K s0 s) : Eff K s0 (s.modPlayer f) :=
  h.step hK (.player _ _)

theorem modCalls (hK : K .calls) {f : CallUnit → CallUnit} (hf : ∀ x, (f x).blocks = x.blocks) (h : Eff K s0 s) :
    Eff K s0 (s.modCalls f) := h.step hK (.calls _ _ hf)

theorem modWarning (hK : K .warnings) (z : ZoneId) (f : Nat → Nat) (h : Eff K s0 s) : Eff K s0 (s.modWarning z f) :=
  h.step hK (.warning _ _ _)

theorem modDoor {d : DoorId} (hK : K (.door d)) {f : Door → Door} (hf : ∀ x, (f x).cfg = x.cfg) (h : Eff K s0 s) :
    Eff K s0 (s.modDoor d f) := h.step hK (.door _ _ _ hf)

theorem modRamp {r : RampId} (hK : K (.ramp r)) {f : Ramp → Ramp} (hf : ∀ x, (f x).cfg = x.cfg) (h : Eff K s0 s) :
    Eff K s0 (s.modRamp r f) := h.step hK (.ramp _ _ _ hf)

theorem modZone {z : ZoneId} (hK : K (.zone z)) {f : Zone → Zone} (hf : ∀ x, (f x).cfg = x.cfg) (h : Eff K s0 s) :
    Eff K s0 (s.modZone z f) := h.step hK (.zone _ _ _ hf)

theorem modPin {p : PinId} (hK : K (.pin p)) {f : Pin → Pin} (hf : ∀ x, (f x).cfg = x.cfg) (h : Eff K s0 s) :
    Eff K s0 (s.modPin p f) := h.step hK (.pin _ _ _ hf)

theorem modPosition {n : PosId} (hK : K (.position n)) {f : Position → Position} (hf : ∀ x, (f x).cfg = x.cfg)
    (h : Eff K s0 s) : Eff K s0 (s.modPosition n f) := h.step hK (.position _ _ _ hf)

theorem modBranch {b : BranchId} (hK : K (.branch b)) {f : Branch → Branch} (hf : ∀ x, (f x).cfg = x.cfg)
    (h : Eff K s0 s) : Eff K s0 (s.modBranch b f) := h.step hK (.branch _ _ _ hf)

theorem modSlot {i : SlotId} (hK : K (.slot i)) {f : Slot → Slot} (hf : ∀ x, (f x).entry = x.entry) (h : Eff K s0 s) :
    Eff K s0 (s.modSlot i f) := h.step hK (.slot _ _ _ hf)

theorem modTrunk (hK : K .trunk) (f : Trunk → Trunk) (h : Eff K s0 s) : Eff K s0 (s.modTrunk f) :=
  h.step hK (.trunk _ _)

/-- A ramp's fields may change: the ramp is one of the parts, or it is active and motion is. -/
def Moves (K : Part → Prop) (s : State) (r : RampId) : Prop :=
  K (.ramp r) ∨ ((s.ramp r).state.isActive = true ∧ K .motion)

theorem move {r : RampId} (hR : Moves K s r) {f : Ramp → Ramp}
    (hf : ∀ x, (f x).cfg = x.cfg ∧ (f x).cmdDisabled = x.cmdDisabled ∧ (f x).lastToggle = x.lastToggle ∧
      (f x).speed = x.speed) (h : Eff K s0 s) : Eff K s0 (s.modRamp r f) := by
  cases hR with
  | inl hR => exact h.step hR (.ramp _ _ _ fun x => (hf x).1)
  | inr hR => exact h.step hR.2 (.motion _ _ _ hR.1 hf)

/-! ### Channels -/

theorem startPair (hK : K .runs) {b : Binding} (hb : b ≠ .none) (p d : Nat) (h : Eff K s0 s) : Eff K s0 (s.startPair b p d) :=
  modRun hK hb _ h

theorem loadDuty (hK : K .runs) {b : Binding} (hb : b ≠ .none) (d : Nat) (h : Eff K s0 s) : Eff K s0 (s.loadDuty b d) := modRun hK hb _ h

theorem stopChannel (hK : K .runs) {b : Binding} (hb : b ≠ .none) (h : Eff K s0 s) : Eff K s0 (s.stopChannel b) := modRun hK hb _ h

theorem startCapture (hK : K .runs) {b : Binding} (hb : b ≠ .none) (m c : Nat) (h : Eff K s0 s) : Eff K s0 (s.startCapture b m c) :=
  modRun hK hb _ h

theorem actCount (hK : K .runs) (b : Binding) (f : CountRun → CountRun) (h : Eff K s0 s) :
    Eff K s0 (s.actCount b f).1 := by
  unfold State.actCount
  split
  · split
    · rename_i x hx
      exact h.step hK (.run _ _ (fun _ => _) fun e => by rw [e] at hx; cases hx)
    · exact h
  · exact h

theorem setDirection (hK : K .runs) (b : Binding) (up : Bool) (h : Eff K s0 s) : Eff K s0 (s.setDirection b up).1 :=
  actCount hK _ _ h

theorem setCount (hK : K .runs) (b : Binding) (n : Nat) (h : Eff K s0 s) : Eff K s0 (s.setCount b n).1 :=
  actCount hK _ _ h

theorem armCompare (hK : K .runs) (b : Binding) (n : Nat) (h : Eff K s0 s) : Eff K s0 (s.armCompare b n).1 :=
  actCount hK _ _ h

theorem disarm (hK : K .runs) (b : Binding) (h : Eff K s0 s) : Eff K s0 (s.disarm b) := actCount hK _ _ h

theorem stopTravel (hK : K .runs) (r : RampId) (h : Eff K s0 s) : Eff K s0 (stopTravel r s) := by
  unfold State.stopTravel
  split
  · exact disarm hK _ (stopChannel hK nofun (stopChannel hK nofun h))
  · exact disarm hK _ (stopChannel hK nofun (stopChannel hK nofun h))
  · exact h

/-! ### What a signal leads to -/

/-- The parts that claims, grants and change notices touch. -/
def reactK : Part → Prop
  | .events | .settle | .runs | .motion | .grants | .dropDrive _ | .dropFor (.rampBeacon _) => True
  | _ => False

theorem settle (hK : ∀ p, reactK p → K p) (h : Eff K s0 s) : Eff K s0 s.settle.1 := by
  unfold State.settle
  exact foldl _ _ (fun _ n h => postLoad (hK .events trivial) n h)
    (h.step (hK .settle trivial) (.settle _ _ (Account.pass_settled _ _ _ _)))

/-- What a signal can do: the parts of `reactK`. -/
def Reacts (k : Signal → State → State) : Prop := ∀ x s, Eff reactK s (k x s)

theorem told {k : Signal → State → State} (hk : Reacts k) (hK : ∀ p, reactK p → K p) (x : Signal) (h : Eff K s0 s) :
    Eff K s0 (k x s) := h.trans ((hk x s).mono hK)

theorem tell {k : Signal → State → State} (hk : Reacts k) (hK : ∀ p, reactK p → K p) {r : State × List Claimant}
    (h : Eff K s0 r.1) : Eff K s0 (State.tell k r) := foldl _ _ (fun _ _ h => told hk hK _ h) h

theorem withdrawWith {k : Signal → State → State} (hk : Reacts k) (hK : ∀ p, reactK p → K p) {c : Claimant}
    (hd : Eff K s0 (s.modAccount (·.drop c))) (h : Eff K s0 s) : Eff K s0 (State.withdrawWith k c s) := by
  unfold State.withdrawWith
  split
  · exact tell hk hK (settle hK hd)
  · exact h

theorem withdrawDriveWith {k : Signal → State → State} (hk : Reacts k) (hK : ∀ p, reactK p → K p) (r : RampId)
    (h : Eff K s0 s) : Eff K s0 (State.withdrawWith k (driveClaimant r) s) :=
  withdrawWith hk hK (h.step (hK (.dropDrive r) trivial) (.dropDrive _ _)) h

theorem withdrawPinWith {k : Signal → State → State} (hk : Reacts k) (hK : ∀ p, reactK p → K p) {f : PinFunction}
    (hf : K (.dropFor f)) (h : Eff K s0 s) : Eff K s0 (State.withdrawPinWith k f s) := by
  unfold State.withdrawPinWith State.claimantOf
  split
  · rename_i c hc
    obtain ⟨p, hp, rfl⟩ := Option.map_eq_some_iff.mp hc
    exact withdrawWith hk hK (h.step hf (.dropFor _ _ _ hp)) h
  · exact h

/-- Changes that touch no pin leave every pin as it is. -/
theorem pins_eq {t : State} (h : Eff K s t) (h1 : ∀ p, ¬K (.pin p)) (h2 : ∀ p, ¬K (.pinCfg p))
    (h3 : ∀ c, ¬K (.channelCfg c)) : t.pins = s.pins := by
  refine h.keeps (fun t => t.pins = s.pins) (fun p t u hp hc ht => ?_) rfl
  cases hc <;> first
    | exact ht
    | exact absurd hp (h1 _)
    | exact absurd hp (h2 _)
    | exact absurd hp (h3 _)

/-- A claimant that no change claims for has no claim after the changes if it had none before. -/
theorem absent {t : State} {c : Claimant} (h : Eff K s t) (h1 : ∀ r, ¬K (.addDrive r)) (h2 : ∀ f, ¬K (.addFor f))
    (h3 : ∀ p, ¬K (.addPin p)) (h5 : ¬K .sweep) (h6 : ∀ p, ¬K (.channelCfg p))
    (h0 : s.account.standingOf c = false) :
    t.account.standingOf c = false := by
  refine h.keeps (fun t => t.account.standingOf c = false) (fun p t u hp hc ht => ?_) h0
  cases hc with
  | settle _ a ha => exact (ha.stands c).trans ht
  | dropDrive => exact (Account.standingOf_drop _ _ _).trans (by simp [ht])
  | dropFor => exact (Account.standingOf_drop _ _ _).trans (by simp [ht])
  | dropPin => exact (Account.standingOf_drop _ _ _).trans (by simp [ht])
  | _ => first
    | exact ht
    | exact absurd hp (h1 _)
    | exact absurd hp (h2 _)
    | exact absurd hp (h3 _)
    | exact absurd hp h5
    | exact absurd hp (h6 _)

theorem find_of_absent {c : Claimant} (h : s.account.standingOf c = false) : s.account.find c = none := by
  unfold Account.standingOf at h
  simpa using h

/-- After a withdrawal the claimant has no claim. -/
theorem find_withdrawWith {k : Signal → State → State} (hk : Reacts k) (c : Claimant) (s : State) :
    (State.withdrawWith k c s).account.find c = none := by
  unfold State.withdrawWith
  split
  · refine find_of_absent (absent (K := reactK) (tell hk (fun _ => id) (settle (fun _ => id) .refl))
      (fun _ => id) (fun f hf => by cases f <;> exact hf) (fun _ => id) id (fun _ => id) ?_)
    exact (Account.standingOf_drop _ _ _).trans (by simp)
  · rename_i h; simpa using h

theorem newClaimWith {k : Signal → State → State} (hk : Reacts k) (hK : ∀ p, reactK p → K p) {c : Claimant}
    {cls : ClaimClass} {n : Nat} (ha : Eff K s0 (s.modAccount fun a => a.add c cls n)) :
    Eff K s0 (State.newClaimWith k c cls n s) := by
  unfold State.newClaimWith
  dsimp only
  split
  · exact tell hk hK (post (hK .events trivial) _ _ _ (settle hK ha))
  · exact tell hk hK (settle hK ha)

theorem claimDriveWith {k : Signal → State → State} (hk : Reacts k) (hK : ∀ p, reactK p → K p) (r : RampId)
    (hr : K (.addDrive r)) (cls : ClaimClass) (n : Nat) (h : Eff K s0 s) :
    Eff K s0 (State.claimWith k (driveClaimant r) cls n s) := by
  unfold State.claimWith
  split
  · split
    · exact h
    · exact newClaimWith hk hK ((withdrawDriveWith hk hK r h).step hr (.addDrive _ _ _ _ (find_withdrawWith hk _ _)))
  · rename_i hn; exact newClaimWith hk hK (h.step hr (.addDrive _ _ _ _ hn))

theorem claimWithOf {k : Signal → State → State} (hk : Reacts k) (hK : ∀ p, reactK p → K p) {f : PinFunction}
    {p : PinId} (hp : s.pinOf f = some p) (hd : K (.dropFor f)) (ha : K (.addFor f)) (cls : ClaimClass) (n : Nat)
    (h : Eff K s0 s) : Eff K s0 (State.claimWith k (pinClaimant p) cls n s) := by
  unfold State.claimWith
  split
  · split
    · exact h
    · let J : Part → Prop := fun p => reactK p ∨ p = .dropFor f
      have hJ : ∀ p, J p → K p := fun p hp => hp.elim (hK p) fun e => e ▸ hd
      have e : Eff J s (State.withdrawWith k (pinClaimant p) s) :=
        withdrawWith hk (fun _ => .inl) (Eff.refl.step (.inr rfl) (.dropFor _ _ _ hp)) .refl
      have hpins := e.pins_eq (fun p hp => hp.elim id nofun) (fun p hp => hp.elim id nofun) (fun p hp => hp.elim id nofun)
      refine newClaimWith hk hK ((h.trans (e.mono hJ)).step ha (.addFor _ f _ ?_ _ _ (find_withdrawWith hk _ _)))
      unfold State.pinOf State.pin at hp ⊢
      rw [hpins]; exact hp
  · rename_i hn; exact newClaimWith hk hK (h.step ha (.addFor _ _ _ hp _ _ hn))

theorem claimPinWith {k : Signal → State → State} (hk : Reacts k) (hK : ∀ p, reactK p → K p) {f : PinFunction}
    (hd : K (.dropFor f)) (ha : K (.addFor f)) (cls : ClaimClass) (h : Eff K s0 s) :
    Eff K s0 (State.claimPinWith k f cls s) := by
  unfold State.claimPinWith
  split
  · rename_i p hp
    exact claimWithOf hk hK hp hd ha _ _ h
  · exact h

/-! ### Ramp motion -/

theorem active_stopTravel (r : RampId) (s : State) : (State.stopTravel r s).ramp = s.ramp := by
  have h := stopTravel (K := fun p => p = .runs) rfl r (.refl (s := s))
  have : (State.stopTravel r s).ramps = s.ramps := by
    refine h.keeps (fun t => t.ramps = s.ramps) (fun p t u hp hc ht => ?_) rfl
    subst hp; cases hc; exact ht
  unfold State.ramp; rw [this]

/-- The fields of a halt change no other ramp. -/
theorem ramp_haltFields_ne {r r' : RampId} (h : r' ≠ r) (dest : RampState) (why : RampReason) (s : State) :
    (State.haltFields r dest why s).ramp r' = s.ramp r' := by
  unfold State.haltFields
  rw [State.modRamp_ramp_ne _ h, active_stopTravel]

theorem haltFields (hK : ∀ p, reactK p → K p) {r : RampId} (hR : Moves K s r) (dest : RampState) (why : RampReason)
    (h : Eff K s0 s) : Eff K s0 (State.haltFields r dest why s) := by
  have hR' : Moves K (State.stopTravel r s) r := by unfold Moves; rw [active_stopTravel]; exact hR
  exact move hR' (fun _ => ⟨rfl, rfl, rfl, rfl⟩) (stopTravel (hK .runs trivial) r h)

theorem haltWith {k : Signal → State → State} (hk : Reacts k) (hK : ∀ p, reactK p → K p) {r : RampId}
    (hR : Moves K s r) (dest : RampState) (why : RampReason) (d : Option PermitId) (h : Eff K s0 s) :
    Eff K s0 (State.haltWith k r dest why d s) := by
  unfold State.haltWith
  dsimp only
  have h2 := postRamp (hK .events trivial) r (withdrawDriveWith hk hK r (haltFields hK hR dest why h))
  split
  · exact told hk hK _ (post (hK .events trivial) _ _ _ h2)
  · exact told hk hK _ h2

theorem restWith {k : Signal → State → State} (hk : Reacts k) (hK : ∀ p, reactK p → K p) {r : RampId}
    (hR : Moves K s r) (dest : RampState) (h : Eff K s0 s) : Eff K s0 (State.restWith k r dest s) := by
  unfold State.restWith
  dsimp only
  have hR' : Moves K (State.stopTravel r s) r := by unfold Moves; rw [active_stopTravel]; exact hR
  have h1 := move hR' (f := fun x => { x with state := dest, reason := .limit, grace := none, timer := none })
    (fun _ => ⟨rfl, rfl, rfl, rfl⟩) (stopTravel (hK .runs trivial) r h)
  exact told hk hK _ (postRamp (hK .events trivial) r
    (withdrawPinWith hk hK (hK (.dropFor (.rampBeacon r)) trivial) (withdrawDriveWith hk hK r h1)))

/-- Changes of channels leave the ramps as they are. -/
theorem ramps_eq {t : State} (h : Eff (fun p => p = .runs ∨ p = .events) s t) : t.ramp = s.ramp := by
  have : t.ramps = s.ramps := by
    refine h.keeps (fun t => t.ramps = s.ramps) (fun p t u hp hc ht => ?_) rfl
    cases hp with
    | inl hp => subst hp; cases hc; exact ht
    | inr hp => subst hp; cases hc; exact ht
  unfold State.ramp; rw [this]

theorem moves_of_state {r : RampId} {t : State} (hR : Moves K s r) (ht : (t.ramp r).state.isActive = true) :
    Moves K t r := hR.imp id fun h => ⟨ht, h.2⟩

theorem slowPoint (hK : K .runs) {r : RampId} (hR : Moves K s r) (h : Eff K s0 s) : Eff K s0 (State.slowPoint r s) := by
  unfold State.slowPoint
  exact loadDuty (b := .rampValve r) hK (by nofun) _ (move hR (fun _ => ⟨rfl, rfl, rfl, rfl⟩) h)

theorem travelWith {k : Signal → State → State} (hk : Reacts k) (hK : ∀ p, reactK p → K p) {r : RampId}
    (hR : Moves K s r) (dir : Direction) (h : Eff K s0 s) : Eff K s0 (State.travelWith k r dir s) := by
  have act (x : Ramp) (hx : x.state = if dir == .lower then RampState.lowering else .raising) :
      x.state.isActive = true := by
    rw [hx]; split <;> rfl
  unfold State.travelWith
  extract_lets lowering s1 x s2 s3 s4 a s5 s6
  have h1 : Eff K s0 s1 := move hR (fun _ => ⟨rfl, rfl, rfl, rfl⟩) h
  have e1 : (s1.ramp r).state = if dir == .lower then RampState.lowering else .raising := by
    simp [s1, lowering]
  have ha1 : (s1.ramp r).state.isActive = true := act _ e1
  have k4 : Eff (fun p => p = .runs ∨ p = .events) s1 a.1 :=
    armCompare (.inl rfl) _ _ (startCapture (.inl rfl) (by nofun) _ _
      (startPair (.inl rfl) (by nofun) _ _ (setDirection (.inl rfl) _ _ .refl)))
  have h4 : Eff K s0 a.1 := h1.trans (k4.mono fun p hp => by
    rcases hp with rfl | rfl
    · exact hK _ trivial
    · exact hK _ trivial)
  have ra : Moves K a.1 r := moves_of_state hR (by rw [ramps_eq k4]; exact ha1)
  have h5 : Eff K s0 s5 := by
    show Eff K s0 (if a.2 = true then State.slowPoint r a.1 else a.1)
    split
    · exact slowPoint (hK .runs trivial) ra h4
    · exact h4
  have h6 : Eff K s0 s6 := told hk hK _ (postRamp (hK .events trivial) r h5)
  split
  · rename_i hc
    refine restWith hk hK (moves_of_state hR ?_) _ h6
    have : (s6.ramp r).state = .lowering := by
      have := (Bool.and_eq_true _ _ ▸ hc).1
      simpa using this
    rw [this]; rfl
  · exact h6

theorem lockingWith {k : Signal → State → State} (hk : Reacts k) (hK : ∀ p, reactK p → K p) {r : RampId}
    (hR : Moves K s r) (h : Eff K s0 s) : Eff K s0 (State.lockingWith k r s) := by
  unfold State.lockingWith
  extract_lets s1 s2 s3
  have hR1 : Moves K s1 r := by
    show Moves K (State.stopTravel r s) r
    unfold Moves; rw [active_stopTravel]; exact hR
  have h2 : Eff K s0 s2 := move hR1 (fun _ => ⟨rfl, rfl, rfl, rfl⟩) (stopTravel (hK .runs trivial) r h)
  have h3 : Eff K s0 s3 := told hk hK _ (postRamp (hK .events trivial) r h2)
  split
  · rename_i hc
    refine restWith hk hK (moves_of_state hR ?_) _ h3
    have : (s3.ramp r).state = .locking := by
      have := (Bool.and_eq_true _ _ ▸ hc).1
      simpa using this
    rw [this]; rfl
  · exact h3

theorem unlockingWith {k : Signal → State → State} (hk : Reacts k) (hK : ∀ p, reactK p → K p) {r : RampId}
    (hR : Moves K s r) (h : Eff K s0 s) : Eff K s0 (State.unlockingWith k r s) := by
  unfold State.unlockingWith
  exact told hk hK _ (postRamp (hK .events trivial) r (move hR (fun _ => ⟨rfl, rfl, rfl, rfl⟩) h))

theorem driveGrantedWith {k : Signal → State → State} (hk : Reacts k) (hK : ∀ p, reactK p → K p) (r : RampId)
    (h : Eff K s0 s) : Eff K s0 (State.driveGrantedWith k r s) := by
  unfold State.driveGrantedWith
  split
  · rename_i hc
    have hR : Moves K s r := .inr ⟨by rw [eq_of_beq hc]; rfl, hK .motion trivial⟩
    split
    · split
      · exact unlockingWith hk hK hR h
      · exact travelWith hk hK hR _ h
    · split
      · exact lockingWith hk hK hR h
      · exact travelWith hk hK hR _ h
  · exact h

/-! ### Grants to doors, and the rounds of `react` -/

theorem holdbackGrantedWith {k : Signal → State → State} (hk : Reacts k) (hK : ∀ p, reactK p → K p) (d : DoorId)
    (h : Eff K s0 s) : Eff K s0 (State.holdbackGrantedWith k d s) := by
  unfold State.holdbackGrantedWith
  split
  · rename_i hc
    have hc' := Bool.and_eq_true _ _ ▸ hc
    exact told hk hK _ (postDoor (hK .events trivial) d
      (h.step (hK .grants trivial) (.opened _ _ (eq_of_beq hc'.1) hc'.2)))
  · exact h

theorem releaseGranted (hK : ∀ p, reactK p → K p) (d : DoorId) (h : Eff K s0 s) : Eff K s0 (State.releaseGranted d s) := by
  have e : State.releaseGranted d s =
      if (s.door d).state == .releasing && (s.door d).timer.isNone then
        s.modDoor d fun x => { x with timer := ms x.cfg.pulse } else s := by
    unfold State.releaseGranted State.modDoor State.door upd
    split
    · rename_i hc; simp only [hc, if_true]
    · rename_i hc
      simp only [hc]
      simp
  rw [e]
  split
  · rename_i hc
    have hc' := Bool.and_eq_true _ _ ▸ hc
    exact h.step (hK .grants trivial) (.pulse _ _ (eq_of_beq hc'.1) (Option.isNone_iff_eq_none.mp hc'.2))
  · exact h

theorem grantedWith {k : Signal → State → State} (hk : Reacts k) (hK : ∀ p, reactK p → K p) (c : Claimant)
    (h : Eff K s0 s) : Eff K s0 (State.grantedWith k c s) := by
  unfold State.grantedWith
  split
  · split
    · exact driveGrantedWith hk hK _ h
    · split
      · split
        · exact holdbackGrantedWith hk hK _ h
        · exact h
      · split
        · exact releaseGranted hK _ h
        · exact h
      · exact h
    · exact h
  · exact h

theorem judgeWith {k : Signal → State → State} (hk : Reacts k) (hK : ∀ p, reactK p → K p) (r : RampId)
    (h : Eff K s0 s) : Eff K s0 (State.judgeWith k r s) := by
  unfold State.judgeWith
  split
  · rename_i e he
    split
    · exact h
    · refine haltWith hk hK (.inr ⟨?_, hK .motion trivial⟩) _ _ _ h
      unfold State.driveGuard at he
      split at he
      · rename_i hd; unfold RampState.isActive; rw [hd]; rfl
      · cases he
  · exact h

theorem judgeOnWith {k : Signal → State → State} (hk : Reacts k) (hK : ∀ p, reactK p → K p) (x : Subject) (r : RampId)
    (h : Eff K s0 s) : Eff K s0 (State.judgeOnWith k x s r) := by
  unfold State.judgeOnWith
  split
  · split
    · exact judgeWith hk hK r h
    · exact h
  · exact h

theorem react (n : Nat) : Reacts (State.react n) := by
  induction n with
  | zero => exact fun _ _ => .refl
  | succ n ih =>
    intro x s
    cases x with
    | granted c => exact grantedWith ih (fun _ => id) c .refl
    | changed x => exact foldl _ _ (fun _ r h => judgeOnWith ih (fun _ => id) x r h) .refl

theorem signal : Reacts State.signal := react 8

theorem changed (hK : ∀ p, reactK p → K p) (x : Subject) (h : Eff K s0 s) : Eff K s0 (State.changed x s) :=
  told signal hK _ h

theorem withdrawDrive (hK : ∀ p, reactK p → K p) (r : RampId) (h : Eff K s0 s) :
    Eff K s0 (withdraw (driveClaimant r) s) := withdrawDriveWith signal hK r h

theorem withdrawClaim (hK : ∀ p, reactK p → K p) (p : PinId) (hp : K (.dropPin p)) (h : Eff K s0 s) :
    Eff K s0 (withdraw (pinClaimant p) s) := withdrawWith signal hK (h.step hp (.dropPin _ _)) h

theorem withdrawPin (hK : ∀ p, reactK p → K p) {f : PinFunction} (hf : K (.dropFor f)) (h : Eff K s0 s) :
    Eff K s0 (State.withdrawPin f s) := withdrawPinWith signal hK hf h

theorem claimPin (hK : ∀ p, reactK p → K p) {f : PinFunction} (hd : K (.dropFor f)) (ha : K (.addFor f))
    (cls : ClaimClass) (h : Eff K s0 s) : Eff K s0 (State.claimPin f cls s) := claimPinWith signal hK hd ha _ h

/-- To leave a grant to the operation that makes the claim is no further effect. -/
theorem signalBut (f : PinFunction) : Reacts (State.signalBut f) := by
  intro x s
  cases x with
  | granted c =>
    show Eff reactK s (if _ then _ else _)
    split
    · exact .refl
    · exact signal _ _
  | changed x => exact signal _ _

end Eff

end Sys2Proof.Machine
end

