-- ==== Sys2Proof/Laws/EffectsOfCalls.lean ====
section
/-! SUPPORT. What the operations of the Call Unit and the chime player can do (Machine/Signs and Calls). -/

namespace Sys2Proof.Machine

namespace Eff

open State

variable {K : Part → Prop} {s0 s : State}

/-! ### Signs and PA nodes: the Call Unit's own fields -/

theorem modTransfer (hK : K .calls) (n : PosId) (f : SignTransfer → SignTransfer) (h : Eff K s0 s) :
    Eff K s0 (s.modTransfer n f) := by unfold State.modTransfer; exact modCalls hK (fun _ => rfl) h

theorem modPaNode (hK : K .calls) (n : PosId) (f : PaNode → PaNode) (h : Eff K s0 s) : Eff K s0 (s.modPaNode n f) := by
  unfold State.modPaNode; exact modCalls hK (fun _ => rfl) h

theorem modTarget (hK : K .calls) (z : ZoneId) (f : Option BlockId → Option BlockId) (h : Eff K s0 s) :
    Eff K s0 (s.modTarget z f) := by unfold State.modTarget; exact modCalls hK (fun _ => rfl) h

theorem modQueue (hK : K .calls) (f : List Call → List Call) (h : Eff K s0 s) : Eff K s0 (s.modQueue f) := by
  unfold State.modQueue; exact modCalls hK (fun _ => rfl) h

theorem modPresenting (hK : K .calls) (z : ZoneId) (f : Option Presentation → Option Presentation) (h : Eff K s0 s) :
    Eff K s0 (s.modPresenting z f) := by unfold State.modPresenting; exact modCalls hK (fun _ => rfl) h

theorem startTransfer (hK : K .calls) (z : ZoneId) (n : PosId) (h : Eff K s0 s) : Eff K s0 (startTransfer z s n) :=
  modTransfer hK n _ h

theorem startTransfers (hK : K .calls) (z : ZoneId) (h : Eff K s0 s) : Eff K s0 (startTransfers z s) :=
  foldl _ _ (fun _ n h => startTransfer hK z n h) h

theorem setTarget (hK : K .calls) (z : ZoneId) (t : Option BlockId) (a : Bool) (h : Eff K s0 s) :
    Eff K s0 (setTarget z t a s) := by
  unfold State.setTarget
  split
  · split
    · refine foldl _ _ (fun s n h => ?_) h
      split
      · exact startTransfer hK z n h
      · exact h
    · exact h
  · exact startTransfers hK z (modTarget hK _ _ h)

theorem rasterRefresh (hK : K .calls) (z : ZoneId) (h : Eff K s0 s) : Eff K s0 (rasterRefresh z s) :=
  foldl _ _ (fun _ _ h => modTransfer hK _ _ h) h

theorem takeSignWord (hK : K .calls) (n : PosId) (z : Option ZoneId) (h : Eff K s0 s) :
    Eff K s0 (takeSignWord n z s).2 := modTransfer hK _ _ h

theorem takePaWord (hK : K .calls) (n : PosId) (h : Eff K s0 s) : Eff K s0 (takePaWord n s).2 := by
  unfold State.takePaWord
  split <;> exact modPaNode hK _ _ h

theorem undelivered (hK : K .calls) (n : PosId) (c : NodeClass) (h : Eff K s0 s) : Eff K s0 (undelivered n c s) := by
  unfold State.undelivered
  split
  · exact modPaNode hK _ _ h
  · exact modTransfer hK _ _ h
  · exact h

theorem burstDelivered (hK : K .calls) (n : PosId) (h : Eff K s0 s) : Eff K s0 (burstDelivered s n) :=
  modTransfer hK _ _ (modPaNode hK _ _ h)

theorem paCommand (hK : K .calls) (c : PaCommand) (n : PosId) (h : Eff K s0 s) : Eff K s0 (paCommand c s n) :=
  modPaNode hK _ _ h

theorem paCommands (hK : K .calls) (c : PaCommand) (l : List PosId) (h : Eff K s0 s) :
    Eff K s0 (l.foldl (State.paCommand c) s) := foldl _ _ (fun _ n h => paCommand hK c n h) h

theorem signAway (hK : K .calls) (n : PosId) (h : Eff K s0 s) : Eff K s0 (signAway n s) := modTransfer hK _ _ h

theorem signBack (hK : K .calls) (n : PosId) (z : Option ZoneId) (h : Eff K s0 s) : Eff K s0 (signBack n z s) := by
  unfold State.signBack
  split
  · exact startTransfer hK _ n (modTransfer hK _ _ h)
  · exact modTransfer hK _ _ h

theorem signReply (hK : K .calls) (n : PosId) (e : Bool) (h : Eff K s0 s) : Eff K s0 (signReply n e s) :=
  modTransfer hK _ _ h

theorem blockWritten (hK : K .calls) (k : BlockId) (h : Eff K s0 s) : Eff K s0 (blockWritten k s) := by
  refine foldl _ _ (fun s z h => ?_) h
  split
  · exact startTransfers hK z h
  · exact h

theorem modCall (hK : K .calls) (t : Byte) (f : Call → Call) (h : Eff K s0 s) : Eff K s0 (s.modCall t f) :=
  modQueue hK _ h

theorem setChime (hK : K .calls) (r : Option ChimeRecord) (h : Eff K s0 s) : Eff K s0 (s.setChime r) :=
  modCalls hK (fun _ => rfl) h

theorem modPresentation (hK : K .calls) (z : ZoneId) (f : Presentation → Presentation) (h : Eff K s0 s) :
    Eff K s0 (s.modPresentation z f) := modPresenting hK _ _ h

theorem accept (hK : K .calls) (c : Call) (h : Eff K s0 s) : Eff K s0 (accept c s) := modCalls hK (fun _ => rfl) h

theorem enterHold (hK : K .calls) (z : ZoneId) (h : Eff K s0 s) : Eff K s0 (enterHold z s) := modPresentation hK z _ h

theorem enterClip (hK : K .calls) (z : ZoneId) (c : Call) (n : Nat) (h : Eff K s0 s) : Eff K s0 (enterClip z c n s) := by
  unfold State.enterClip
  dsimp only
  split
  · exact enterHold hK z (paCommands hK _ _ h)
  · exact modPresentation hK z _ (paCommands hK _ _ h)

theorem afterChime (hK : K .calls) (z : ZoneId) (c : Call) (h : Eff K s0 s) : Eff K s0 (afterChime z c s) := by
  unfold State.afterChime
  split
  · exact enterClip hK z c _ h
  · exact enterHold hK z h

theorem dropAwaited (hK : K .calls) (n : PosId) (z : ZoneId) (h : Eff K s0 s) : Eff K s0 (dropAwaited n s z) := by
  unfold State.dropAwaited
  split
  · split
    · dsimp only
      split
      · exact enterHold hK z (modPresentation hK z _ h)
      · exact modPresentation hK z _ h
    · exact h
  · exact h

theorem paReply (hK : K .calls) (n : PosId) (w : Word) (h : Eff K s0 s) : Eff K s0 (paReply n w s) := by
  unfold State.paReply
  dsimp only
  split
  · exact h
  · exact foldl _ _ (fun _ z h => dropAwaited hK n z h) h

theorem paAway (hK : K .calls) (n : PosId) (h : Eff K s0 s) : Eff K s0 (paAway n s) :=
  modPaNode hK _ _ (foldl _ _ (fun _ z h => dropAwaited hK n z h) h)

/-! ### The player, presentations and the queue -/

/-- The parts that the Call Unit touches. -/
def callK (p : Part) : Prop :=
  reactK p ∨ match p with
    | .player | .calls | .dropFor (.chime _) | .addFor (.chime _) => True
    | _ => False

section

variable (hK : ∀ p, callK p → K p)

include hK

theorem callK_react (p : Part) (h : reactK p) : K p := hK p (.inl h)

theorem callK_calls : K .calls := hK _ (.inr trivial)

theorem postDone (t : Byte) (why : DoneReason) (h : Eff K s0 s) : Eff K s0 (s.postDone t why) :=
  post (hK _ (.inl trivial)) _ _ _ h

theorem playerOn (h : Eff K s0 s) : Eff K s0 (playerOn s) := by
  unfold State.playerOn
  exact modPlayer (hK _ (.inr trivial)) _ (startPair (b := .chime) (hK _ (.inl trivial)) nofun _ _ h)

theorem play (k : ChimeId) (h : Eff K s0 s) : Eff K s0 (play k s) := by
  unfold State.play
  split
  · exact playerOn hK (modPlayer (hK _ (.inr trivial)) _ h)
  · exact h

theorem cut (h : Eff K s0 s) : Eff K s0 (cut s) := by
  unfold State.cut
  split
  · exact h
  · exact modPlayer (hK _ (.inr trivial)) _ (stopChannel (b := .chime) (hK _ (.inl trivial)) nofun h)

theorem withdrawChime (z : ZoneId) (h : Eff K s0 s) : Eff K s0 (State.withdrawPin (.chime z) s) :=
  withdrawPin (callK_react hK) (hK _ (.inr trivial)) h

theorem chimeOver (z : ZoneId) (h : Eff K s0 s) : Eff K s0 (chimeOver s z) := by
  unfold State.chimeOver
  dsimp only
  split
  · exact afterChime (callK_calls hK) z _ (withdrawChime hK z h)
  · exact withdrawChime hK z h

theorem joinChime (z : ZoneId) (h : Eff K s0 s) : Eff K s0 (joinChime s z) := by
  unfold State.joinChime
  dsimp only
  refine claimPin (callK_react hK) (hK _ (.inr trivial)) (hK _ (.inr trivial)) _ ?_
  split
  · exact setChime (callK_calls hK) _ (modPresentation (callK_calls hK) z _ h)
  · exact modPresentation (callK_calls hK) z _ h

theorem startChime (z : ZoneId) (c : Call) (k : ChimeId) (h : Eff K s0 s) : Eff K s0 (startChime z c k s) :=
  joinChime hK z (setChime (callK_calls hK) _ (play hK k h))

theorem chimesOver (l : List ZoneId) (h : Eff K s0 s) : Eff K s0 (l.foldl State.chimeOver s) :=
  foldl _ _ (fun _ z h => chimeOver hK z h) h

theorem enterChime (z : ZoneId) (c : Call) (k : ChimeId) (h : Eff K s0 s) : Eff K s0 (enterChime z c k s) := by
  unfold State.enterChime
  split
  · exact startChime hK z c k h
  · split
    · exact joinChime hK z h
    · split
      · exact startChime hK z c k (setChime (callK_calls hK) _ (chimesOver hK _ (cut hK h)))
      · exact modPresentation (callK_calls hK) z _ h

theorem judgeWaiting (h : Eff K s0 s) : Eff K s0 (judgeWaiting s) := by
  unfold State.judgeWaiting
  dsimp only
  split
  · split
    · exact foldl _ _ (fun _ z h => joinChime hK z h) (startChime hK _ _ _ h)
    · exact h
  · exact h

theorem patternEnded (h : Eff K s0 s) : Eff K s0 (patternEnded s) := by
  unfold State.patternEnded
  split
  · exact judgeWaiting hK (setChime (callK_calls hK) _ (chimesOver hK _ h))
  · exact h

theorem leaveChime (z : ZoneId) (h : Eff K s0 s) : Eff K s0 (leaveChime z s) := by
  unfold State.leaveChime
  split
  · split
    · dsimp only
      split
      · exact judgeWaiting hK (setChime (callK_calls hK) _ (cut hK (withdrawChime hK z h)))
      · exact setChime (callK_calls hK) _ (withdrawChime hK z h)
    · exact h
  · exact h

theorem startPresentation (z : ZoneId) (c : Call) (h : Eff K s0 s) : Eff K s0 (startPresentation z c s) := by
  have hC := callK_calls hK
  unfold State.startPresentation
  extract_lets s1 s2 s3
  have h1 : Eff K s0 s3 := setTarget hC z _ _ (modPresenting hC z _ (modCall hC _ _ h))
  split
  · exact enterChime hK z c _ h1
  · exact afterChime hC z c h1

theorem selectCall (z : ZoneId) (h : Eff K s0 s) : Eff K s0 (selectCall s z) := by
  unfold State.selectCall
  split
  · exact h
  · split
    · exact startPresentation hK z _ h
    · exact setTarget (callK_calls hK) z _ _ h

theorem endUncounted (z : ZoneId) (h : Eff K s0 s) : Eff K s0 (endUncounted s z) := by
  have hC := callK_calls hK
  unfold State.endUncounted
  split
  · exact leaveChime hK z (modPresenting hC z _ (modCall hC _ _ (paCommands hC _ _ h)))
  · exact h

theorem selectCalls (l : List ZoneId) (h : Eff K s0 s) : Eff K s0 (l.foldl State.selectCall s) :=
  foldl _ _ (fun _ z h => selectCall hK z h) h

theorem removeCall (t : Byte) (why : DoneReason) (h : Eff K s0 s) : Eff K s0 (removeCall t why s) :=
  selectCalls hK _ (postDone hK t why (modQueue (callK_calls hK) _ (foldl _ _ (fun _ z h => endUncounted hK z h) h)))

theorem enqueue {c : Call} {t : State} (he : State.enqueue c s = some t) (h : Eff K s0 s) : Eff K s0 t := by
  unfold State.enqueue at he
  split at he
  · cases he; exact accept (callK_calls hK) c h
  · split at he
    · cases he; exact accept (callK_calls hK) c (removeCall hK _ _ h)
    · cases he

theorem preempt (z : ZoneId) (c : Call) (h : Eff K s0 s) : Eff K s0 (preempt z c s) := by
  unfold State.preempt
  split
  · split
    · exact selectCall hK z (endUncounted hK z h)
    · exact h
  · exact selectCall hK z h

theorem postInternal (c : Call) (z : ZoneId) (h : Eff K s0 s) : Eff K s0 (postInternal c z s) := by
  unfold State.postInternal
  split
  · split
    · exact preempt hK z c (modCall (callK_calls hK) _ _ h)
    · exact h
  · split
    · rename_i t he
      split
      · exact preempt hK z c (enqueue hK he h)
      · exact selectCall hK z (enqueue hK he h)
    · exact post (hK _ (.inl trivial)) _ _ _ h

theorem cancelInternal (t : Byte) (h : Eff K s0 s) : Eff K s0 (cancelInternal t s) := by
  unfold State.cancelInternal
  split
  · exact removeCall hK t _ h
  · exact h

theorem finishPresentation (z : ZoneId) (h : Eff K s0 s) : Eff K s0 (finishPresentation z s) := by
  have hC := callK_calls hK
  unfold State.finishPresentation
  split
  · refine selectCall hK z ?_
    dsimp only
    split
    · split
      · exact postDone hK _ _ (modQueue hC _ (modPresenting hC z _ (modCall hC _ _ h)))
      · exact modPresenting hC z _ (modCall hC _ _ h)
    · exact modPresenting hC z _ (modCall hC _ _ h)
  · exact h

theorem clipTimedOut (z : ZoneId) (h : Eff K s0 s) : Eff K s0 (clipTimedOut z s) := by
  have hC := callK_calls hK
  unfold State.clipTimedOut
  split
  · exact enterHold hC z (paCommands hC _ _ (post (hK _ (.inl trivial)) _ _ _ h))
  · exact h

theorem zoneRetired (z : ZoneId) (h : Eff K s0 s) : Eff K s0 (zoneRetired z s) := by
  have hC := callK_calls hK
  have h1 := foldl (K := K) (s0 := s0) (fun (s : State) (c : Call) =>
      let s := if (s.zonesPresenting c.tag).contains z then State.endUncounted s z else s
      let s := s.modCall c.tag fun c => c.modItem z fun i => { i with status := .done, gap := none }
      match s.findCall c.tag with
      | some c =>
        if c.complete then (s.modQueue fun q => q.filter fun x => x.tag != c.tag).postDone c.tag .completed else s
      | none => s) (s.calls.queue.filter fun c => (c.item z).isSome) (fun s c h => by
    have h2 : Eff K s0 (if (s.zonesPresenting c.tag).contains z then State.endUncounted s z else s) := by
      split
      · exact endUncounted hK z h
      · exact h
    dsimp only
    split
    · split
      · exact postDone hK _ _ (modQueue hC _ (modCall hC _ _ h2))
      · exact modCall hC _ _ h2
    · exact modCall hC _ _ h2) h
  unfold State.zoneRetired
  dsimp only
  split
  · exact setTarget hC z _ _ h1
  · exact h1

theorem presentationHeld (z : ZoneId) (h : Eff K s0 s) : Eff K s0 (presentationHeld z s) := by
  unfold State.presentationHeld
  split
  · split
    · exact finishPresentation hK z h
    · exact h
  · exact h

theorem clipExpired (z : ZoneId) (h : Eff K s0 s) : Eff K s0 (clipExpired z s) := by
  unfold State.clipExpired
  split
  · split
    · exact clipTimedOut hK z h
    · exact h
  · exact h

theorem gapExpired (t : Byte) (z : ZoneId) (h : Eff K s0 s) : Eff K s0 (gapExpired t z s) := by
  unfold State.gapExpired
  split
  · split
    · exact selectCall hK z (modCall (callK_calls hK) _ _ h)
    · exact h
  · exact h

theorem restartCalls (h : Eff K s0 s) : Eff K s0 (State.restartCalls s) := by
  have hC := callK_calls hK
  exact foldl _ _ (fun _ _ h => modTarget hC _ _ h)
    (foldl _ _ (fun _ _ h => modTransfer hC _ _ h) (modCalls hC (fun _ => rfl) h))

end

end Eff

end Sys2Proof.Machine
end

