-- ==== Sys2Proof/Laws/EffectsOfUnits.lean ====
section
/-! SUPPORT. What the operations of the Door, Ramp and Zone Units can do (Machine/Doors, Ramps and Zones). -/

namespace Sys2Proof.Machine

namespace Eff

open State

variable {K : Part → Prop} {s0 s : State}

/-! ### The Door Unit -/

/-- The parts that the warning count of a zone and its call touch. -/
def warnK (p : Part) : Prop :=
  callK p ∨ match p with
    | .warnings => True
    | _ => False

/-- The parts that an operation on a door touches. -/
def doorK (d : DoorId) (p : Part) : Prop :=
  warnK p ∨ match p with
    | .door e | .dropFor (.doorHoldback e) | .dropFor (.doorRelease e) | .addFor (.doorHoldback e)
    | .addFor (.doorRelease e) => e = d
    | _ => False

section

variable (hK : ∀ p, warnK p → K p)

include hK

theorem warnK_call (p : Part) (h : callK p) : K p := hK p (.inl h)

theorem judgeWarning (z : ZoneId) (h : Eff K s0 s) : Eff K s0 (judgeWarning z s) := by
  have h1 := modWarning (hK _ (.inr trivial)) z (fun _ => s.warningCount z) h
  unfold State.judgeWarning
  dsimp only
  split
  · split
    · exact postInternal (warnK_call hK) _ z h1
    · exact h1
  · split
    · exact cancelInternal (warnK_call hK) _ h1
    · exact h1

theorem judgeEach (h : Eff K s0 s) : Eff K s0 ((each 8).foldl (fun s z => State.judgeWarning z s) s) :=
  foldl _ _ (fun _ z h => judgeWarning hK z h) h

theorem judgeWarnings (z : ZoneId) (h : Eff K s0 s) : Eff K s0 (State.judgeWarnings z s) :=
  judgeEach hK (judgeWarning hK z h)

theorem tellDoor (d : DoorId) {x : DoorStep} (h : Eff K s0 x.state) : Eff K s0 (tellDoor d x) := by
  unfold State.tellDoor
  split
  · exact changed (fun p hp => hK p (.inl (.inl hp))) _ h
  · exact h

theorem doorOp (d : DoorId) {body : State → DoorStep} (hb : Eff K s0 (body s).state) : Eff K s0 (doorOp d body s) := by
  have h1 := judgeWarnings hK (s.door d).cfg.zone hb
  unfold State.doorOp State.tellDoor
  dsimp only
  split
  · exact changed (fun p hp => hK p (.inl (.inl hp))) _ h1
  · exact h1

end

section

variable {d : DoorId} (hK : ∀ p, doorK d p → K p)

include hK

theorem doorK_warn (p : Part) (h : warnK p) : K p := hK p (.inl h)

theorem doorK_react (p : Part) (h : reactK p) : K p := hK p (.inl (.inl (.inl h)))

theorem doorK_events : K .events := doorK_react hK _ trivial

theorem doorK_door : K (.door d) := hK _ (.inr rfl)

theorem withdrawDoor (h : Eff K s0 s) : Eff K s0 (withdrawDoor d s) :=
  withdrawPin (doorK_react hK) (hK _ (.inr rfl)) (withdrawPin (doorK_react hK) (hK _ (.inr rfl)) h)

theorem claimHold (cls : ClaimClass) (h : Eff K s0 s) : Eff K s0 (State.claimPin (.doorHoldback d) cls s) :=
  claimPin (doorK_react hK) (hK _ (.inr rfl)) (hK _ (.inr rfl)) _ h

theorem claimRelease (cls : ClaimClass) (h : Eff K s0 s) : Eff K s0 (State.claimPin (.doorRelease d) cls s) :=
  claimPin (doorK_react hK) (hK _ (.inr rfl)) (hK _ (.inr rfl)) _ h

theorem setDoor (dest : DoorState) (why : DoorReason) (t : Timer) (h : Eff K s0 s) :
    Eff K s0 (setDoor d dest why t s) := modDoor (doorK_door hK) (fun _ => rfl) h

theorem announceDoor (was : DoorState) (h : Eff K s0 s) : Eff K s0 (announceDoor d was s).state :=
  postDoor (doorK_events hK) d h

theorem settleDoor (dest : DoorState) (why : DoorReason) (t : Timer) (h : Eff K s0 s) :
    Eff K s0 (settleDoor d dest why t s).state :=
  announceDoor hK _ (withdrawDoor hK (setDoor hK dest why t h))

theorem moveDoor (dest : DoorState) (why : DoorReason) (t : Timer) (h : Eff K s0 s) :
    Eff K s0 (moveDoor d dest why t s).state :=
  announceDoor hK _ (setDoor hK dest why t h)

theorem clearHolds (h : Eff K s0 s) : Eff K s0 (clearHolds d s) := modDoor (doorK_door hK) (fun _ => rfl) h

theorem enterClosed (why : DoorReason) (h : Eff K s0 s) : Eff K s0 (enterClosed d why s).state :=
  settleDoor hK _ _ _ (clearHolds hK h)

theorem enterClosing (why : DoorReason) (h : Eff K s0 s) : Eff K s0 (enterClosing d why s).state := settleDoor hK _ _ _ h

theorem enterDoorFault (h : Eff K s0 s) : Eff K s0 (enterDoorFault d s).state :=
  settleDoor hK _ _ _ (modDoor (doorK_door hK) (fun _ => rfl) h)

theorem enterReleasing (why : DoorReason) (h : Eff K s0 s) : Eff K s0 (enterReleasing d why s).state := by
  unfold State.enterReleasing
  exact announceDoor hK _ (claimRelease hK _ (modDoor (doorK_door hK) (fun _ => rfl) (setDoor hK _ _ _ h)))

theorem enterCrewHold (h : Eff K s0 s) : Eff K s0 (enterCrewHold d s).state := by
  unfold State.enterCrewHold
  exact settleDoor hK _ _ _ (modDoor (doorK_door hK) (fun _ => rfl) h)

theorem enterOpen (why : DoorReason) (h : Eff K s0 s) : Eff K s0 (enterOpen d why s).state :=
  moveDoor hK _ _ _ h

theorem warningOver (h : Eff K s0 s) : Eff K s0 (warningOver d s).state := by
  unfold State.warningOver
  split
  · exact enterClosing hK _ h
  · exact enterReleasing hK _ h

theorem enterWarning (why : DoorReason) (h : Eff K s0 s) : Eff K s0 (enterWarning d why s).state := by
  have h1 := moveDoor hK .warning why (ms (s.door d).cfg.warning) h
  unfold State.enterWarning
  dsimp only
  split
  · exact warningOver hK (tellDoor (doorK_warn hK) d h1)
  · exact h1

theorem claimHoldback {x : DoorStep} (h : Eff K s0 x.state) : Eff K s0 (claimHoldback d x).state := by
  have h1 := claimPinWith (f := .doorHoldback d) (signalBut (.doorHoldback d)) (doorK_react hK) (hK _ (.inr rfl)) (hK _ (.inr rfl)) .hold h
  unfold State.claimHoldback
  dsimp only
  split
  · exact enterOpen hK _ (tellDoor (doorK_warn hK) d h1)
  · exact h1

theorem enterReopening (why : DoorReason) (h : Eff K s0 s) : Eff K s0 (enterReopening d why s).state := by
  have h1 := moveDoor hK .reopening why (ms reopenTime) h
  unfold State.enterReopening
  dsimp only
  split
  · exact claimHoldback hK h1
  · exact h1

theorem leaveService (why : DoorReason) (h : Eff K s0 s) : Eff K s0 (leaveService d why s).state :=
  settleDoor hK _ _ _ (clearHolds hK h)

theorem deriveDoor (h : Eff K s0 s) : Eff K s0 (deriveDoor d s).state := by
  have h1 := clearHolds hK h
  unfold State.deriveDoor
  dsimp only
  split
  · exact enterClosed hK _ h1
  · exact enterDoorFault hK h1
  · exact enterClosing hK _ h1
  · split
    · exact enterWarning hK _ h1
    · split
      · exact enterReopening hK _ h1
      · exact enterOpen hK _ h1

theorem tryService (h : Eff K s0 s) : Eff K s0 (tryService d s).state := by
  unfold State.tryService
  split
  · exact deriveDoor hK h
  · exact modDoor (doorK_door hK) (fun _ => rfl) h

theorem rewriteInService (old new : DoorCfg) (h : Eff K s0 s) : Eff K s0 (rewriteInService d old new s).state := by
  unfold State.rewriteInService
  split
  · exact leaveService hK _ h
  · split
    · have h1 := withdrawDoor hK (modDoor (doorK_door hK) (f := fun x => { x with timer := none }) (fun _ => rfl) h)
      dsimp only
      split
      · exact deriveDoor hK h1
      · exact leaveService hK _ h1
    · exact h

theorem rewriteDisabled (old new : DoorCfg) (h : Eff K s0 s) : Eff K s0 (rewriteDisabled d old new s).state := by
  unfold State.rewriteDisabled
  dsimp only
  split
  · exact modDoor (doorK_door hK) (fun _ => rfl) h
  · split
    · exact tryService hK h
    · split
      · exact tryService hK h
      · exact h

theorem writeDoor (hc : K (.doorCfg d)) (new : DoorCfg) (h : Eff K s0 s) : Eff K s0 (writeDoor d new s) := by
  unfold State.writeDoor
  dsimp only
  split
  · exact h
  · refine doorOp (doorK_warn hK) d ?_
    split
    · exact rewriteDisabled hK _ _ (h.step hc (.doorCfg _ _ _))
    · exact rewriteInService hK _ _ (h.step hc (.doorCfg _ _ _))

theorem closedActive (h : Eff K s0 s) : Eff K s0 (closedActive d s).state := by
  unfold State.closedActive
  split
  · exact enterClosed hK _ h
  · exact enterClosed hK _ h
  · exact enterClosed hK _ h
  · exact enterClosed hK _ h
  · exact enterClosed hK _ h
  · exact enterClosed hK _ h
  · split
    · exact h
    · exact enterClosed hK _ h
  · exact h

theorem openActive (h : Eff K s0 s) : Eff K s0 (openActive d s).state := by
  unfold State.openActive
  split
  · split
    · exact enterOpen hK _ h
    · exact h
  · exact h

theorem openInactive (h : Eff K s0 s) : Eff K s0 (openInactive d s).state := by
  unfold State.openInactive
  split
  · exact enterClosing hK _ h
  · exact h

theorem openChange (a : Bool) (h : Eff K s0 s) : Eff K s0 (openChange d a s).state := by
  unfold State.openChange
  split
  · exact h
  · split
    · exact enterDoorFault hK h
    · split
      · split
        · exact h
        · exact openActive hK h
      · exact openInactive hK h

theorem closedChange (a : Bool) (h : Eff K s0 s) : Eff K s0 (closedChange d a s).state := by
  unfold State.closedChange
  split
  · exact h
  · split
    · exact enterDoorFault hK h
    · split
      · exact closedActive hK h
      · split
        · exact moveDoor hK _ _ _ h
        · split
          · exact openChange hK _ h
          · exact h

theorem refuseHold (h : Eff K s0 s) : Eff K s0 (refuseHold d s).state :=
  postDoor (doorK_events hK) d (modDoor (doorK_door hK) (fun _ => rfl) h)

theorem holdPress (h : Eff K s0 s) : Eff K s0 (holdPress d s).state := by
  unfold State.holdPress State.still
  dsimp only
  repeat' split
  all_goals try dsimp only
  all_goals with_reducible first
    | exact h
    | exact enterCrewHold hK h
    | exact refuseHold hK h
    | exact modDoor (doorK_door hK) (fun _ => rfl) h

theorem warningExpired (k : DoorKind) (h : Eff K s0 s) : Eff K s0 (warningExpired d k s) := by
  unfold State.warningExpired
  dsimp only
  split
  · exact doorOp (doorK_warn hK) d (warningOver hK h)
  · exact h

theorem pulseExpired (h : Eff K s0 s) : Eff K s0 (pulseExpired d s) := by
  unfold State.pulseExpired
  dsimp only
  split
  · refine doorOp (doorK_warn hK) d ?_
    split
    · exact enterCrewHold hK h
    · exact enterClosing hK _ h
  · exact h

theorem travelOver (h : Eff K s0 s) : Eff K s0 (travelOver d s).state := by
  have h1 := settleDoor hK .obstructed .travel none h
  unfold State.travelOver
  dsimp only
  split
  · exact enterReleasing hK _ (modDoor (doorK_door hK) (fun _ => rfl) (tellDoor (doorK_warn hK) d h1))
  · exact h1

theorem travelExpired (h : Eff K s0 s) : Eff K s0 (travelExpired d s) := by
  unfold State.travelExpired
  split
  · exact doorOp (doorK_warn hK) d (travelOver hK h)
  · exact h

theorem holdExpired (h : Eff K s0 s) : Eff K s0 (holdExpired d s) := by
  unfold State.holdExpired
  split
  · refine doorOp (doorK_warn hK) d ?_
    split
    · exact enterClosed hK _ h
    · exact enterWarning hK _ h
  · exact h

theorem reopenExpired (h : Eff K s0 s) : Eff K s0 (reopenExpired d s) := by
  unfold State.reopenExpired
  split
  · refine doorOp (doorK_warn hK) d ?_
    split
    · exact enterClosed hK _ h
    · exact enterClosing hK _ h
  · exact h

theorem doorPins (before : Limits) (h : Eff K s0 s) : Eff K s0 (doorPins d before s) := by
  unfold State.doorPins
  refine doorOp (doorK_warn hK) d ?_
  split
  · split
    · exact deriveDoor hK h
    · exact h
  · split
    · exact leaveService hK _ h
    · split
      · exact openChange hK _ h
      · exact h

theorem closeDoor {t : State} (he : State.closeDoor d s = some t) (h : Eff K s0 s) : Eff K s0 t := by
  have h1 := doorOp (body := State.enterWarning d .close) (doorK_warn hK) d (enterWarning hK _ h)
  have h2 := doorOp (body := State.enterClosing d .close) (doorK_warn hK) d (enterClosing hK _ h)
  have h3 := doorOp (body := State.enterReleasing d .close) (doorK_warn hK) d (enterReleasing hK _ h)
  unfold State.closeDoor at he
  repeat' split at he
  all_goals first
    | obtain rfl := Option.some.inj he; with_reducible assumption
    | exact nomatch he

theorem reopenDoor (h : Eff K s0 s) : Eff K s0 (reopenDoor d s) := by
  have h1 := enterReopening hK .reopen (clearHolds hK h)
  unfold State.reopenDoor
  refine doorOp (doorK_warn hK) d ?_
  dsimp only
  split
  · exact enterOpen hK _ (tellDoor (doorK_warn hK) d h1)
  · exact h1

theorem restartDoorFields (h : Eff K s0 s) : Eff K s0 (restartDoorFields s d) := by
  have h1 := modDoor (doorK_door hK) (f := fun x => { x with timer := none }) (fun _ => rfl) (clearHolds hK h)
  unfold State.restartDoorFields
  dsimp only
  split
  · exact h1
  · exact setDoor hK _ _ _ h1

theorem restartClaims (h : Eff K s0 s) : Eff K s0 (restartClaims s d) := by
  unfold State.restartClaims
  dsimp only
  repeat' split
  all_goals with_reducible first
    | exact h
    | exact withdrawDoor hK h
    | exact claimHold hK _ h
    | exact claimRelease hK _ (withdrawDoor hK h)

theorem restartState (h : Eff K s0 s) : Eff K s0 (restartState d s) := by
  unfold State.restartState
  dsimp only
  repeat' split
  all_goals exact setDoor hK _ _ _ h

theorem restartDoor (before : DoorId → DoorState) (h : Eff K s0 s) : Eff K s0 (restartDoor before s d) := by
  have h1 := restartState hK h
  unfold State.restartDoor
  dsimp only
  repeat' split
  · exact h
  · exact postDoor (doorK_events hK) d h1
  · exact h1

end

section

variable (hK : ∀ d p, doorK d p → K p)

include hK

theorem alarmDoors (z : ZoneId) (h : Eff K s0 s) : Eff K s0 (alarmDoors z s) := by
  unfold State.alarmDoors
  split
  · refine foldl _ _ (fun s d h => ?_) h
    dsimp only
    split
    · exact doorOp (doorK_warn (hK d)) d (enterWarning (hK d) _ h)
    · exact h
  · exact h

theorem restartDoors (before : DoorId → DoorState) (h : Eff K s0 s) : Eff K s0 (restartDoors before s) := by
  unfold State.restartDoors
  exact judgeEach (doorK_warn (hK 0)) (foldl _ _ (fun _ d h => restartDoor (hK d) _ h) h)

end

/-! ### The Ramp Unit -/

/-- The parts that an operation on a ramp touches. -/
def rampK (r : RampId) (p : Part) : Prop :=
  reactK p ∨ match p with
    | .ramp q | .addDrive q | .addFor (.rampBeacon q) => q = r
    | _ => False

section

variable {r : RampId} (hK : ∀ p, rampK r p → K p)

include hK

theorem rampK_react (p : Part) (h : reactK p) : K p := hK p (.inl h)

theorem rampK_events : K .events := hK _ (.inl trivial)

theorem rampK_runs : K .runs := hK _ (.inl trivial)

theorem rampK_ramp : K (.ramp r) := hK _ (.inr rfl)

theorem rampK_moves (s : State) : Moves K s r := .inl (rampK_ramp hK)

theorem holdRamp (why : RampReason) (h : Eff K s0 s) : Eff K s0 (holdRamp r why s) :=
  haltWith signal (rampK_react hK) (rampK_moves hK s) _ _ _ h

theorem faultRamp (why : RampReason) (h : Eff K s0 s) : Eff K s0 (faultRamp r why s) :=
  haltWith signal (rampK_react hK) (rampK_moves hK s) _ _ _ h

theorem rest (dest : RampState) (h : Eff K s0 s) : Eff K s0 (State.restWith State.signal r dest s) :=
  restWith signal (rampK_react hK) (rampK_moves hK s) _ h

theorem travel (dir : Direction) (h : Eff K s0 s) : Eff K s0 (State.travelWith State.signal r dir s) :=
  travelWith signal (rampK_react hK) (rampK_moves hK s) _ h

theorem claimBeacon (h : Eff K s0 s) : Eff K s0 (claimBeacon r s) :=
  claimPin (rampK_react hK) (f := .rampBeacon r) (hK _ (.inl trivial)) (hK _ (.inr rfl)) _ h

theorem leaveQuiet (h : Eff K s0 s) : Eff K s0 (leaveQuiet r s) := by
  unfold State.leaveQuiet
  split
  · exact claimBeacon hK h
  · exact h

theorem refuseMotion (why : RampReason) (h : Eff K s0 s) : Eff K s0 (refuseMotion r why s) := by
  unfold State.refuseMotion
  split
  · exact h
  · exact postRamp (rampK_events hK) r (modRamp (rampK_ramp hK) (fun _ => rfl) h)

theorem beginMotion (dir : Direction) (h : Eff K s0 s) : Eff K s0 (beginMotion r dir s) := by
  unfold State.beginMotion
  extract_lets s1 s2 s3
  have h3 : Eff K s0 s3 := changed (rampK_react hK) _
    (postRamp (rampK_events hK) r (modRamp (rampK_ramp hK) (fun _ => rfl) (leaveQuiet hK h)))
  split
  · exact claimDriveWith signal (rampK_react hK) r (hK _ (.inr rfl)) _ _ h3
  · exact h3

theorem startRamp (dir : Direction) (h : Eff K s0 s) : Eff K s0 (startRamp r dir s) := by
  unfold State.startRamp
  split
  · exact refuseMotion hK _ h
  · exact beginMotion hK dir h

theorem keepMoving (b : Bool) (h : Eff K s0 s) : Eff K s0 (keepMoving r b s) := by
  unfold State.keepMoving
  extract_lets s1
  have h1 : Eff K s0 s1 := modRamp (rampK_ramp hK) (fun _ => rfl) h
  repeat' split
  all_goals with_reducible first
    | exact h1
    | exact loadDuty (b := .rampValve r) (rampK_runs hK) (fun e => Binding.noConfusion e) _ h1

theorem freshWord (w : MotionWord) (h : Eff K s0 s) : Eff K s0 (freshWord r w s) := by
  unfold State.freshWord
  extract_lets old s1
  have h1 : Eff K s0 s1 := by
    show Eff K s0 (if _ then _ else _)
    split
    · exact modRamp (rampK_ramp hK) (fun _ => rfl) h
    · exact h
  repeat' split
  all_goals with_reducible first
    | exact h1
    | exact startRamp hK _ h1
    | exact refuseMotion hK _ h1
    | exact keepMoving hK _ h1
    | exact holdRamp hK _ h1

theorem takeMotion (w : MotionWord) (h : Eff K s0 s) : Eff K s0 (takeMotion r w s) := by
  unfold State.takeMotion
  split
  · exact h
  · have h1 := modRamp (rampK_ramp hK) (f := fun x => { x with lastToggle := w.toggle }) (fun _ => rfl) h
    dsimp only
    split
    · exact h1
    · exact h1
    · exact freshWord hK w h1

theorem heldByLimit (h : Eff K s0 s) : Eff K s0 (heldByLimit r s) := holdRamp hK _ (leaveQuiet hK h)

theorem limitMove (which : RampLimit) (a : Bool) (h : Eff K s0 s) : Eff K s0 (limitMove r which a s) := by
  unfold State.limitMove
  repeat' split
  all_goals with_reducible first
    | exact h
    | exact heldByLimit hK h
    | exact rest hK _ h
    | exact travel hK _ h
    | exact holdRamp hK _ h
    | exact lockingWith signal (rampK_react hK) (rampK_moves hK s) h

theorem homePosition (h : Eff K s0 s) : Eff K s0 (homePosition r s) := by
  have h1 := setCount (rampK_runs hK) (.rampEncoder r) 0 h
  unfold State.homePosition
  dsimp only
  split
  · exact slowPoint (rampK_runs hK) (rampK_moves hK _) h1
  · exact h1

theorem rampLimitChange (which : RampLimit) (a : Bool) (h : Eff K s0 s) : Eff K s0 (rampLimitChange r which a s) := by
  unfold State.rampLimitChange
  extract_lets s1
  have h1 : Eff K s0 s1 := by
    show Eff K s0 (if _ then _ else _)
    split
    · exact homePosition hK h
    · exact h
  split
  · exact h1
  · exact h1
  · split
    · exact faultRamp hK _ (leaveQuiet hK h1)
    · exact limitMove hK which a h1

theorem deriveFields (h : Eff K s0 s) : Eff K s0 (deriveFields r s) := by
  unfold State.deriveFields
  refine modRamp (rampK_ramp hK) (fun x => ?_) h
  dsimp only
  split
  · rfl
  · split <;> rfl
  · rfl
  · rfl

theorem beaconByState (h : Eff K s0 s) : Eff K s0 (beaconByState r s) := by
  unfold State.beaconByState
  split
  · exact withdrawPin (rampK_react hK) (hK _ (.inl trivial)) h
  · exact claimBeacon hK h

theorem deriveRamp (h : Eff K s0 s) : Eff K s0 (deriveRamp r s) := by
  have h1 := postRamp (rampK_events hK) r (beaconByState hK (deriveFields hK h))
  unfold State.deriveRamp
  dsimp only
  split
  · exact changed (rampK_react hK) _ h1
  · exact h1

theorem leaveRamp (why : RampReason) (h : Eff K s0 s) : Eff K s0 (leaveRamp r why s) := by
  unfold State.leaveRamp
  exact changed (rampK_react hK) _ (postRamp (rampK_events hK) r (withdrawPin (rampK_react hK) (hK _ (.inl trivial))
    (withdrawDrive (rampK_react hK) r (modRamp (rampK_ramp hK) (fun _ => rfl) (stopTravel (rampK_runs hK) r h)))))

theorem tryRamp (h : Eff K s0 s) : Eff K s0 (tryRamp r s) := by
  unfold State.tryRamp
  split
  · exact deriveRamp hK h
  · exact modRamp (rampK_ramp hK) (fun _ => rfl) h

theorem writeRamp (hc : K (.rampCfg r)) (new : RampCfg) (h : Eff K s0 s) : Eff K s0 (writeRamp r new s) := by
  unfold State.writeRamp
  extract_lets old s1
  have h1 : Eff K s0 s1 := h.step hc (.rampCfg _ _ _)
  repeat' split
  all_goals with_reducible first
    | exact h1
    | exact modRamp (rampK_ramp hK) (fun _ => rfl) h1
    | exact tryRamp hK h1
    | exact leaveRamp hK _ h1
    | exact holdRamp hK _ h1

theorem rampRequirements (h : Eff K s0 s) : Eff K s0 (rampRequirements r s) := by
  unfold State.rampRequirements
  dsimp only
  repeat' split
  all_goals with_reducible first
    | exact h
    | exact deriveRamp hK h
    | exact leaveRamp hK _ h

theorem beaconGained (h : Eff K s0 s) : Eff K s0 (beaconGained r s) := by
  unfold State.beaconGained
  split
  · exact h
  · exact claimBeacon hK h

theorem disableRamp (h : Eff K s0 s) : Eff K s0 (disableRamp r s) := by
  have h1 := modRamp (rampK_ramp hK) (f := fun x => { x with cmdDisabled := true }) (fun _ => rfl) h
  unfold State.disableRamp
  dsimp only
  split
  · exact modRamp (rampK_ramp hK) (fun _ => rfl) h1
  · exact leaveRamp hK _ h1

theorem enableRamp {t : State} (he : State.enableRamp r s = some t) (h : Eff K s0 s) : Eff K s0 t := by
  unfold State.enableRamp at he
  split at he
  · split at he
    · cases he; exact tryRamp hK (modRamp (rampK_ramp hK) (fun _ => rfl) h)
    · cases he
  · cases he; exact h

theorem stopRamp (h : Eff K s0 s) : Eff K s0 (stopRamp r s) := by
  unfold State.stopRamp
  split
  · exact holdRamp hK _ h
  · exact h

theorem graceExpired (h : Eff K s0 s) : Eff K s0 (graceExpired r s) := by
  unfold State.graceExpired
  split
  · exact holdRamp hK _ h
  · exact h

theorem unlockExpired (h : Eff K s0 s) : Eff K s0 (unlockExpired r s) := by
  unfold State.unlockExpired
  repeat' split
  all_goals with_reducible first
    | exact h
    | exact faultRamp hK _ h
    | exact travel hK _ h

theorem lockExpired (h : Eff K s0 s) : Eff K s0 (lockExpired r s) := by
  unfold State.lockExpired
  repeat' split
  all_goals with_reducible first
    | exact h
    | exact faultRamp hK _ h
    | exact rest hK _ h

theorem restartRampFields (h : Eff K s0 s) : Eff K s0 (restartRampFields s r) := by
  unfold State.restartRampFields
  split
  · exact modRamp (rampK_ramp hK) (fun _ => rfl) h
  · exact modRamp (rampK_ramp hK) (fun _ => rfl) h
  · exact deriveFields hK h

theorem restartBeacon (h : Eff K s0 s) : Eff K s0 (restartBeacon s r) := by
  unfold State.restartBeacon
  split
  · exact h
  · exact claimBeacon hK h

theorem restartRamp (before : RampId → RampState) (h : Eff K s0 s) : Eff K s0 (restartRamp before s r) := by
  unfold State.restartRamp
  split
  · exact postRamp (rampK_events hK) r h
  · exact h

end

section

variable (hK : ∀ p, reactK p → K p)

include hK

/-- An active ramp is halted as a grant or a permit halts one. -/
theorem haltActive (r : RampId) (ha : (s.ramp r).state.isActive = true) (dest : RampState) (why : RampReason)
    (h : Eff K s0 s) : Eff K s0 (State.haltWith State.signal r dest why none s) :=
  haltWith signal hK (.inr ⟨ha, hK _ trivial⟩) _ _ _ h

theorem speedFault (r : RampId) (why : RampReason) (h : Eff K s0 s) : Eff K s0 (speedFault r why s) := by
  unfold State.speedFault
  split
  · rename_i e; exact haltActive hK r (by rw [e]; rfl) _ _ h
  · rename_i e; exact haltActive hK r (by rw [e]; rfl) _ _ h
  · exact h

/-- Several drive claims are withdrawn and the account settles once. -/
theorem withdrawDrives (rs : List RampId) (h : Eff K s0 s) : Eff K s0 (State.withdrawDrives rs s) := by
  unfold State.withdrawDrives
  split
  · exact tell signal hK (settle hK (foldl _ _ (fun _ r h => h.step (hK (.dropDrive r) trivial) (.dropDrive _ _)) h))
  · exact h

omit hK in
/-- The claims of several ramps are dropped. -/
theorem absent_dropDrives (rs : List RampId) {c : Claimant}
    (h : s.account.standingOf c = false ∨ ∃ r ∈ rs, driveClaimant r = c) :
    (rs.foldl (fun s r => s.modAccount (·.drop (driveClaimant r))) s).account.standingOf c = false := by
  induction rs generalizing s with
  | nil => exact h.elim id fun ⟨_, hr, _⟩ => absurd hr List.not_mem_nil
  | cons q rs ih =>
    refine ih ?_
    rcases h with h | ⟨r, hr, e⟩
    · exact .inl ((Account.standingOf_drop _ _ _).trans (by simp [h]))
    · rcases List.mem_cons.mp hr with rfl | hr
      · exact .inl ((Account.standingOf_drop _ _ _).trans (by simp [e]))
      · exact .inr ⟨r, hr, e⟩

omit hK in
/-- After it none of the ramps has a drive claim. -/
theorem find_withdrawDrives {rs : List RampId} {r : RampId} (hr : r ∈ rs) (s : State) :
    (State.withdrawDrives rs s).account.find (driveClaimant r) = none := by
  unfold State.withdrawDrives
  split
  · exact find_of_absent (absent (K := reactK) (tell signal (fun _ => id) (settle (fun _ => id) .refl))
      (fun _ => id) (fun f hf => by cases f <;> exact hf) (fun _ => id) id (fun _ => id)
      (absent_dropDrives rs (.inr ⟨r, hr, rfl⟩)))
  · rename_i h
    cases e : s.account.find (driveClaimant r) with
    | none => rfl
    | some c => exact absurd (List.any_eq_true.mpr ⟨r, hr, by rw [e]; rfl⟩) h

/-- The fields of a halt, for ramps that are active. -/
theorem haltEach (why : RampReason) (rs : List RampId) (hn : rs.Nodup) (ha : ∀ r ∈ rs, (s.ramp r).state.isActive = true)
    (h : Eff K s0 s) : Eff K s0 (rs.foldl (fun s r => State.haltFields r .held why s) s) := by
  induction rs generalizing s with
  | nil => exact h
  | cons r rs ih =>
    have hn' := List.nodup_cons.mp hn
    refine ih hn'.2 (fun q hq => ?_)
      (haltFields hK (.inr ⟨ha r List.mem_cons_self, hK .motion trivial⟩) .held why h)
    rw [ramp_haltFields_ne fun e : q = r => hn'.1 (by rw [← e]; exact hq)]
    exact ha q (List.mem_cons_of_mem _ hq)

theorem holdTogether {which : Ramp → Bool} (hw : ∀ x, which x = true → x.state.isActive = true) (why : RampReason)
    (h : Eff K s0 s) : Eff K s0 (State.holdTogether which why s) := by
  refine foldl _ _ (fun _ r h => changed hK _ h) (foldl _ _ (fun _ r h => postRamp (hK .events trivial) r h)
    (withdrawDrives hK _ (haltEach hK why _ ((by decide : (each 2).Nodup).sublist List.filter_sublist) (fun r hr => ?_) h)))
  exact hw _ (List.mem_filter.mp hr).2

theorem alarmRamps (z : ZoneId) (h : Eff K s0 s) : Eff K s0 (alarmRamps z s) :=
  holdTogether hK (fun x hx => by
    unfold RampState.isActive
    rw [((Bool.and_eq_true _ _).mp hx).2]
    rfl) _ h

theorem trunkRamps (h : Eff K s0 s) : Eff K s0 (trunkRamps s) := holdTogether hK (fun _ hx => hx) _ h

end

/-! ### The Zone Unit -/

/-- The parts that an operation on a zone touches. -/
def zoneK (z : ZoneId) (p : Part) : Prop :=
  (∃ d, doorK d p) ∨ match p with
    | .zone y | .dropFor (.zoneBeacon y) | .addFor (.zoneBeacon y) => y = z
    | _ => False

section

variable {z : ZoneId} (hK : ∀ p, zoneK z p → K p)

include hK

theorem zoneK_door (d : DoorId) (p : Part) (h : doorK d p) : K p := hK p (.inl ⟨d, h⟩)

theorem zoneK_call (p : Part) (h : callK p) : K p := hK p (.inl ⟨0, .inl (.inl h)⟩)

theorem zoneK_calls : K .calls := callK_calls (zoneK_call hK)

theorem zoneK_react (p : Part) (h : reactK p) : K p := zoneK_call hK p (.inl h)

theorem zoneK_runs : K .runs := zoneK_react hK _ trivial

theorem zoneK_zone : K (.zone z) := hK _ (.inr rfl)

theorem raiseAlarm (h : Eff K s0 s) : Eff K s0 (raiseAlarm z s) := by
  unfold State.raiseAlarm
  exact claimPin (zoneK_react hK) (hK _ (.inr rfl)) (hK _ (.inr rfl)) _ (postInternal (zoneK_call hK) _ _
    (alarmDoors (zoneK_door hK) z (alarmRamps (zoneK_react hK) z (rasterRefresh (zoneK_calls hK) z h))))

theorem raiseEvacuation (h : Eff K s0 s) : Eff K s0 (raiseEvacuation z s) :=
  postInternal (zoneK_call hK) _ _ (rasterRefresh (zoneK_calls hK) z h)

theorem standDown (h : Eff K s0 s) : Eff K s0 (standDown z s) :=
  withdrawPin (zoneK_react hK) (hK _ (.inr rfl))
    (cancelInternal (zoneK_call hK) _ (rasterRefresh (zoneK_calls hK) z h))

theorem moveZone (dest : ZoneState) (c : ZoneCause) (h : Eff K s0 s) : Eff K s0 (moveZone z dest c s) := by
  unfold State.moveZone
  extract_lets was s1 s2
  have h1 : Eff K s0 s1 := postZone (zoneK_react hK _ trivial) z c (modZone (zoneK_zone hK) (fun _ => rfl) h)
  refine changed (zoneK_react hK) _ ?_
  show Eff K s0 (match was, s1.alarmed z with
    | false, true => State.raiseAlarm z s1
    | true, true => State.raiseEvacuation z s1
    | true, false => State.standDown z s1
    | false, false => s1)
  split
  · exact raiseAlarm hK h1
  · exact raiseEvacuation hK h1
  · exact standDown hK h1
  · exact h1

theorem stopWindow (h : Eff K s0 s) : Eff K s0 (stopWindow z s) :=
  setCount (zoneK_runs hK) _ _ (disarm (zoneK_runs hK) _ (modZone (zoneK_zone hK) (fun _ => rfl) h))

theorem alarmZone (dest : ZoneState) (c : ZoneCause) (h : Eff K s0 s) : Eff K s0 (alarmZone z dest c s) := by
  refine moveZone hK dest c ?_
  split
  · exact stopWindow hK h
  · exact h

theorem startWindow (n : Nat) (h : Eff K s0 s) : Eff K s0 (startWindow z n s).1 := by
  unfold State.startWindow
  exact armCompare (zoneK_runs hK) _ _ (setCount (zoneK_runs hK) _ _ (disarm (zoneK_runs hK) _
    (modZone (zoneK_zone hK) (fun _ => rfl) h)))

theorem firstPulse (n : Nat) (h : Eff K s0 s) : Eff K s0 (firstPulse z n s) := by
  unfold State.firstPulse
  split
  · exact alarmZone hK _ _ h
  · exact moveZone hK _ _ (startWindow hK n h)

theorem detectorEdge (h : Eff K s0 s) : Eff K s0 (detectorEdge z s) := by
  unfold State.detectorEdge
  repeat' split
  all_goals with_reducible first
    | exact h
    | exact firstPulse hK _ h
    | exact alarmZone hK _ _ h

theorem detectorFirst (h : Eff K s0 s) : Eff K s0 (detectorFirst z s) := by
  unfold State.detectorFirst
  split
  · exact firstPulse hK _ h
  · exact h

theorem localAlarm (h : Eff K s0 s) : Eff K s0 (localAlarm z s) := by
  unfold State.localAlarm
  split
  · exact alarmZone hK _ _ h
  · exact alarmZone hK _ _ h
  · exact h

theorem thresholdReached (h : Eff K s0 s) : Eff K s0 (thresholdReached z s) := by
  unfold State.thresholdReached
  split
  · exact alarmZone hK _ _ h
  · exact h

theorem detectorBound (h : Eff K s0 s) : Eff K s0 (detectorBound z s) := by
  unfold State.detectorBound
  split
  · have h1 := armCompare (zoneK_runs hK) (.zoneDetector z) (s.zone z).cfg.threshold
      (setCount (zoneK_runs hK) (.zoneDetector z) 1 h)
    dsimp only
    split
    · exact thresholdReached hK h1
    · exact h1
  · exact h

theorem windowExpired (h : Eff K s0 s) : Eff K s0 (windowExpired z s) := by
  unfold State.windowExpired
  split
  · exact moveZone hK _ _ (stopWindow hK h)
  · exact h

theorem sensorReply (w : Word) (h : Eff K s0 s) : Eff K s0 (sensorReply z w s) := by
  unfold State.sensorReply
  split
  · exact localAlarm hK h
  · exact h

omit hK in
theorem zoneNotice (hz : K (.zone z)) (f : Bool) (c : NodeClass) (n : NodeNotice) (h : Eff K s0 s) :
    Eff K s0 (zoneNotice z f c n s) := by
  unfold State.zoneNotice
  dsimp only
  repeat' split
  all_goals with_reducible first
    | exact h
    | exact modZone hz (fun _ => rfl) h

theorem writeZone (hc : K (.zoneCfg z)) (new : ZoneCfg) (h : Eff K s0 s) : Eff K s0 (writeZone z new s) := by
  unfold State.writeZone
  extract_lets old s1 s2 s3 s4
  have h1 : Eff K s0 s1 := h.step hc (.zoneCfg _ _ _)
  have h3 : Eff K s0 s3 := modZone (zoneK_zone hK) (fun _ => rfl) (moveZone hK _ _ h1)
  have h4 : Eff K s0 s4 := modZone (zoneK_zone hK) (fun _ => rfl) (stopWindow hK h1)
  have h5 := changed (zoneK_react hK) (.zone z) (zoneRetired (zoneK_call hK) z
    (postZone (zoneK_react hK .events trivial) z .command h4))
  repeat' split
  all_goals with_reducible first
    | exact h1
    | exact h3
    | exact moveZone hK _ _ h3
    | exact h5
    | exact alarmDoors (zoneK_door hK) z h1

theorem setAlarmZone (h : Eff K s0 s) : Eff K s0 (setAlarmZone z s).1 := by
  unfold State.setAlarmZone
  split <;> with_reducible first
    | exact h
    | exact alarmZone hK _ _ h

theorem evacuateZone (h : Eff K s0 s) : Eff K s0 (evacuateZone z s).1 := by
  unfold State.evacuateZone
  split <;> with_reducible first
    | exact h
    | exact alarmZone hK _ _ h

theorem clearZone (h : Eff K s0 s) : Eff K s0 (clearZone z s).1 := by
  unfold State.clearZone
  repeat' split
  all_goals with_reducible first
    | exact h
    | exact moveZone hK _ _ (stopWindow hK h)

theorem isolateZone (h : Eff K s0 s) : Eff K s0 (isolateZone z s).1 := by
  unfold State.isolateZone
  split <;> with_reducible first
    | exact h
    | exact moveZone hK _ _ (stopWindow hK h)

theorem restoreZone (h : Eff K s0 s) : Eff K s0 (restoreZone z s).1 := by
  unfold State.restoreZone
  split
  · exact moveZone hK _ _ h
  · exact h

theorem restartWindow (h : Eff K s0 s) : Eff K s0 (restartWindow z s) := by
  have h1 := startWindow hK 1 h
  unfold State.restartWindow
  dsimp only
  repeat' split
  all_goals with_reducible first
    | exact thresholdReached hK h1
    | exact h1
    | exact moveZone hK _ _ h

theorem repeatAlarm (h : Eff K s0 s) : Eff K s0 (repeatAlarm z s) := by
  unfold State.repeatAlarm
  exact claimPin (zoneK_react hK) (hK _ (.inr rfl)) (hK _ (.inr rfl)) _ (postInternal (zoneK_call hK) _ _ h)

theorem restartZone (h : Eff K s0 s) : Eff K s0 (restartZone s z) := by
  have h1 := modZone (zoneK_zone hK) (f := fun x => { x with window := none }) (fun _ => rfl) h
  unfold State.restartZone
  dsimp only
  repeat' split
  · exact restartWindow hK h1
  · exact repeatAlarm hK h1
  · exact h1

end

theorem restartZones (hK : ∀ z p, zoneK z p → K p) (h : Eff K s0 s) : Eff K s0 (State.restartZones s) :=
  foldl _ _ (fun _ z h => restartZone (hK z) h) h

end Eff

end Sys2Proof.Machine
end

