-- ==== Sys2Proof/Laws/EffectsOfChains.lean ====
section
/-! SUPPORT. What the operations of the Line Unit, the Channel Pool, the Route Table and the Branch Engines can do, and
RESTART (Machine/Lines, Pool, Routes, Branches and Restart). -/

namespace Sys2Proof.Machine

theorem branchOf_posIndex (b : BranchId) (p : PlaceId) : branchOf (posIndex b p) = b := by
  apply Fin.ext
  simp only [branchOf, posIndex]
  omega

/-- A channel's update looks at the channel as it stands only. -/
theorem State.modChannel_congr (s : State) (c : ChanId) (f g : Channel → Channel)
    (h : f (s.channel c) = g (s.channel c)) : s.modChannel c f = s.modChannel c g := by
  unfold modChannel upd
  unfold channel at h
  rw [h]

namespace Eff

open State

variable {K : Part → Prop} {s0 s : State}

/-- The parts that the Door, Ramp, Zone and Call Units touch together. -/
def unitK (p : Part) : Prop := (∃ z, zoneK z p) ∨ ∃ r, rampK r p

section

variable (hK : ∀ p, unitK p → K p)

include hK

theorem unitK_zone (z : ZoneId) (p : Part) (h : zoneK z p) : K p := hK p (.inl ⟨z, h⟩)

theorem unitK_ramp (r : RampId) (p : Part) (h : rampK r p) : K p := hK p (.inr ⟨r, h⟩)

theorem unitK_door (d : DoorId) (p : Part) (h : doorK d p) : K p := unitK_zone hK 0 p (.inl ⟨d, h⟩)

theorem unitK_react (p : Part) (h : reactK p) : K p := unitK_ramp hK 0 p (.inl h)

theorem unitK_events : K .events := unitK_react hK _ trivial

theorem unitK_runs : K .runs := unitK_react hK _ trivial

/-! ### The Line Unit -/

theorem captureEdge (r : RampId) (h : Eff K s0 s) : Eff K s0 (captureEdge r s) := by
  unfold State.captureEdge
  split
  · rename_i c hc
    split
    · rename_i w hw
      have h1 := h.step (unitK_runs hK) (.run s c (fun _ => .capturing w.edge.1) fun e => by rw [e] at hw; cases hw)
      dsimp only
      split
      · exact speedFault (unitK_react hK) r _ h1
      · exact h1
    · exact h
  · exact h

theorem encoderEdge (r : RampId) (h : Eff K s0 s) : Eff K s0 (encoderEdge r s) := by
  have h1 := actCount (unitK_runs hK) (.rampEncoder r) CountRun.encoderEdge h
  unfold State.encoderEdge
  refine captureEdge hK r ?_
  split
  · exact slowPoint (unitK_runs hK) (rampK_moves (unitK_ramp hK r) _) h1
  · exact h1

theorem detectorPulse (z : ZoneId) (h : Eff K s0 s) : Eff K s0 (detectorPulse z s) := by
  have h1 := actCount (unitK_runs hK) (.zoneDetector z) CountRun.detectorEdge (detectorEdge (unitK_zone hK z) h)
  unfold State.detectorPulse
  dsimp only
  split
  · exact thresholdReached (unitK_zone hK z) h1
  · exact h1

theorem doorOpOf (d : DoorId) {body : State → DoorStep} (hb : Eff K s0 (body s).state) : Eff K s0 (State.doorOp d body s) :=
  doorOp (doorK_warn (unitK_door hK d)) d hb

theorem ownerTakes (f : PinFunction) (a : Bool) (h : Eff K s0 s) : Eff K s0 (ownerTakes f a s) := by
  unfold State.ownerTakes
  split
  · exact doorOpOf hK _ (openChange (unitK_door hK _) a h)
  · exact doorOpOf hK _ (closedChange (unitK_door hK _) a h)
  · split
    · exact doorOpOf hK _ (holdPress (unitK_door hK _) h)
    · exact h
  · exact rampLimitChange (unitK_ramp hK _) _ a h
  · exact rampLimitChange (unitK_ramp hK _) _ a h
  · exact rampLimitChange (unitK_ramp hK _) _ a h
  · split
    · exact encoderEdge hK _ h
    · exact h
  · split
    · exact detectorPulse hK _ h
    · exact h
  · split
    · exact localAlarm (unitK_zone hK _) h
    · exact h
  · exact h

theorem deliver (p : PinId) (h : Eff K s0 s) : Eff K s0 (deliver p s) := by
  unfold State.deliver
  refine changed (unitK_react hK) _ (ownerTakes hK _ _ ?_)
  split
  · exact post (unitK_events hK) _ _ _ h
  · exact h

theorem takeLevel {p : PinId} (hp : K (.pin p)) (h : Eff K s0 s) : Eff K s0 (takeLevel p s) := by
  have h1 := modPin hp (f := fun x => { x with filtered := x.raw, filterTimer := none }) (fun _ => rfl) h
  unfold State.takeLevel
  dsimp only
  split
  · exact deliver hK p h1
  · exact h1

theorem rawChange {p : PinId} (hp : K (.pin p)) (level : Bool) (h : Eff K s0 s) : Eff K s0 (rawChange p level s) := by
  unfold State.rawChange
  extract_lets old s1
  have h1 : Eff K s0 s1 := modPin hp (fun _ => rfl) h
  repeat' split
  all_goals with_reducible first
    | exact h
    | exact h1
    | exact modPin hp (fun _ => rfl) h1
    | exact takeLevel hK hp h1

theorem filterExpired {p : PinId} (hp : K (.pin p)) (h : Eff K s0 s) : Eff K s0 (filterExpired p s) := by
  unfold State.filterExpired
  split
  · exact takeLevel hK hp h
  · exact h

theorem ownerLost (f : PinFunction) (before : DoorId → Limits) (h : Eff K s0 s) : Eff K s0 (ownerLost f before s) := by
  unfold State.ownerLost
  split
  · exact doorPins (unitK_door hK _) _ h
  · exact rampRequirements (unitK_ramp hK _) h
  · exact h

theorem ownerGained (f : PinFunction) (a : Bool) (before : DoorId → Limits) (h : Eff K s0 s) :
    Eff K s0 (ownerGained f a before s) := by
  unfold State.ownerGained
  split
  · refine rampRequirements (unitK_ramp hK _) ?_
    split
    · exact homePosition (unitK_ramp hK _) h
    · exact h
  · exact beaconGained (unitK_ramp hK _) h
  · split
    · exact detectorFirst (unitK_zone hK _) h
    · exact h
  · split
    · exact localAlarm (unitK_zone hK _) h
    · exact h
  · exact ownerLost hK _ _ h

theorem moveFunction {p : PinId} (hc : K (.pinCfg p)) (hd : K (.dropPin p)) (new : PinCfg)
    (hl : s.unit.lock = false) (ht : s.functionTaken p new.function = false) (h : Eff K s0 s) :
    Eff K s0 (moveFunction p new s) := by
  unfold State.moveFunction
  extract_lets old before s1 s2 sameDoor s3
  have h1 : Eff K s0 s1 := h.step hc (.pinCfg s p _ new hl (fun _ => rfl) ht)
  have h2 : Eff K s0 s2 := ownerLost hK _ _ (withdrawClaim (unitK_react hK) p hd h1)
  have h3 : Eff K s0 s3 := by
    show Eff K s0 (if _ then _ else _)
    split
    · exact h2
    · exact ownerGained hK _ _ _ h2
  split
  · exact changed (unitK_react hK) _ h3
  · exact h3

theorem writePin {p : PinId} (hc : K (.pinCfg p)) (hd : K (.dropPin p)) (new : PinCfg)
    (hl : s.unit.lock = false) (ht : s.functionTaken p new.function = false) (h : Eff K s0 s) :
    Eff K s0 (writePin p new s) := by
  unfold State.writePin
  extract_lets old s1
  have h1 : Eff K s0 s1 := h.step hc (.pinCfg s p _ new hl (fun _ => rfl) ht)
  split
  · exact h
  · split
    · exact moveFunction hK hc hd new hl ht h
    · split
      · exact deliver hK p h1
      · exact h1

/-! ### The Channel Pool -/

theorem bindingMoved (b : Binding) (h : Eff K s0 s) : Eff K s0 (bindingMoved b s) := by
  unfold State.bindingMoved
  split
  · exact rampRequirements (unitK_ramp hK _) h
  · exact h

theorem writeChannel {c : ChanId} (hc : K (.channelCfg c)) (new : ChannelCfg) (hl : s.unit.lock = false)
    (hn : s.channelConflict c new = none) (h : Eff K s0 s) : Eff K s0 (writeChannel c new s) := by
  unfold State.writeChannel
  extract_lets old s1
  have h1 : Eff K s0 s1 := bindingMoved hK _ (h.step hc (.bind s c new hl hn))
  split
  · exact h
  · split
    · split
      · exact detectorBound (unitK_zone hK _) h1
      · exact bindingMoved hK _ h1
    · rename_i hb
      exact h.step hc (.retime s c new (State.retime old new) hl hn (by simpa using hb))

theorem stallReached (c : ChanId) (h : Eff K s0 s) : Eff K s0 (stallReached c s) := by
  unfold State.stallReached
  split
  · rename_i w r hw _
    split
    · exact h
    · exact speedFault (unitK_react hK) _ _ (h.step (unitK_runs hK)
        (.run s c (fun _ => .capturing { w with count := w.stallCount, stalled := true })
          fun e => by rw [e] at hw; cases hw))
  · exact h

end

/-- The parts that OUTPUT_SET touches. -/
def outputK (p : PinId) (x : Part) : Prop :=
  reactK x ∨ match x with
    | .pin q | .dropPin q | .addPin q => q = p
    | _ => False

section

variable {p : PinId} (hK : ∀ x, outputK p x → K x)

include hK

theorem outputK_react (x : Part) (h : reactK x) : K x := hK x (.inl h)

theorem applySetting (dest : OutputSetting) (h : Eff K s0 s) : Eff K s0 (applySetting p dest s) := by
  unfold State.applySetting
  extract_lets s1
  have h1 : Eff K s0 s1 := modPin (hK _ (.inr rfl)) (fun _ => rfl) h
  split
  · exact h
  · split
    · exact withdrawClaim (outputK_react hK) p (hK _ (.inr rfl)) h1
    · split
      · exact h1
      · rename_i hn
        have hn : s1.account.find (pinClaimant p) = none := by simpa [claimStands] using hn
        unfold State.claimWith
        rw [hn]
        exact newClaimWith signal (outputK_react hK) (h1.step (hK _ (.inr rfl)) (.addPin _ _ _ _ hn))

theorem setOutput (dest : OutputSetting) (h : Eff K s0 s) : Eff K s0 (setOutput p dest s).1 := by
  unfold State.setOutput
  repeat' split
  all_goals with_reducible first
    | exact h
    | exact applySetting hK _ h

end

section

variable (hK : ∀ p, reactK p → K p)

include hK

theorem restartLines (hs : K .sweep) (h : Eff K s0 s) : Eff K s0 (restartLines s) :=
  settle hK (h.step hs (.sweep _ _))

/-- What a running pair does with its own values. -/
theorem modPwm (c : ChanId) (f : PwmRun → PwmRun) (h : Eff K s0 s) : Eff K s0
    (s.modChannel c fun x => match x.run with
      | .pwm p => { x with run := .pwm (f p) }
      | _ => x) := by
  rw [modChannel_congr s c _ (fun x => { x with run := match x.run with
    | .pwm p => .pwm (f p)
    | r => r }) (by cases s.channel c with | mk g r => cases r <;> rfl)]
  exact h.step (hK .runs trivial) (.run s c (fun r => match r with
    | .pwm p => .pwm (f p)
    | r => r) fun _ => rfl)

theorem pairPeriod (k : PairId) (h : Eff K s0 s) : Eff K s0 (pairPeriod k s) := modPwm hK _ PwmRun.periodStart h

theorem pairDutyEnd (k : PairId) (h : Eff K s0 s) : Eff K s0 (pairDutyEnd k s) := modPwm hK _ PwmRun.dutyEnd h

theorem restartPool (hp : K .player) (h : Eff K s0 s) : Eff K s0 (restartPool s) := by
  unfold State.restartPool
  refine modPlayer hp _ (foldl _ _ (fun s c h => ?_) h)
  rw [modChannel_congr s c _ (fun x => { x with run := restartRun (s.channel c) }) rfl]
  exact h.step (hK .runs trivial) (.run s c (fun _ => restartRun (s.channel c)) fun e => by rw [e]; rfl)

end

section

variable (hK : ∀ p, callK p → K p)

include hK

theorem burstOver (h : Eff K s0 s) : Eff K s0 (burstOver s) := by
  unfold State.burstOver
  extract_lets s1 e
  have h1 : Eff K s0 s1 := modPlayer (hK _ (.inr trivial)) _ (stopChannel (b := .chime) (hK _ (.inl trivial)) nofun h)
  split
  · split
    · exact patternEnded hK (modPlayer (hK _ (.inr trivial)) _ h1)
    · exact modPlayer (hK _ (.inr trivial)) _ h1
  · exact h

theorem pauseOver (h : Eff K s0 s) : Eff K s0 (pauseOver s) := by
  unfold State.pauseOver
  split
  · exact playerOn hK h
  · exact h

end

/-! ### The Route Table -/

theorem storeRoute {i : SlotId} (hi : K (.route i)) (e : RouteEntry) (h : Eff K s0 s) : Eff K s0 (storeRoute i e s) :=
  h.step hi (.route _ _ _)

theorem writeRoute {i : SlotId} (hi : K (.route i)) (f : RouteFields) (h : Eff K s0 s) :
    Eff K s0 (writeRoute i f s).1 := by
  unfold State.writeRoute
  repeat' split
  all_goals with_reducible first
    | exact h
    | exact storeRoute hi _ h

theorem slotWord {i : SlotId} (hi : K (.slot i)) (hn : ∀ n, K (.position n)) (v : Word) (h : Eff K s0 s) :
    Eff K s0 (slotWord i v s) := by
  unfold State.slotWord
  split
  · exact modPosition (hn _) (fun _ => rfl) h
  · exact modSlot hi (fun _ => rfl) h

theorem holdReply (hi : ∀ i, K (.slot i)) (n : PosId) (v : Word) (h : Eff K s0 s) : Eff K s0 (holdReply n v s) := by
  unfold State.holdReply
  split
  · exact modSlot (hi _) (fun _ => rfl) h
  · exact h

theorem voidRoutes (hi : ∀ i, K (.route i)) (n : PosId) (h : Eff K s0 s) : Eff K s0 (voidRoutes n s).1 :=
  foldl _ _ (fun _ i h => h.step (hi i) (.route _ _ _)) h

theorem reportItem (hi : ∀ i, K (.slot i)) (x : ReplyItem) (h : Eff K s0 s) : Eff K s0 (reportItem s x) := by
  unfold State.reportItem
  refine modSlot (hi _) (fun y => ?_) h
  split <;> rfl

theorem restartRoutes (hi : ∀ i, K (.slot i)) (h : Eff K s0 s) : Eff K s0 (restartRoutes s) :=
  foldl _ _ (fun _ i h => modSlot (hi i) (fun _ => rfl) h) h

/-! ### The Branch Engines -/

/-- The parts that taking the words of a burst touches. -/
def burstK (b : BranchId) : Part → Prop
  | .calls => True
  | .branch c => c = b
  | .position n => branchOf n = b
  | _ => False

section

variable {b : BranchId} (hK : ∀ p, burstK b p → K p)

include hK

theorem burstK_position (p : PlaceId) : K (.position (posIndex b p)) := hK _ (branchOf_posIndex b p)

theorem burstK_branch : K (.branch b) := hK _ rfl

theorem generalWord {n : PosId} (hn : branchOf n = b) (h : Eff K s0 s) : Eff K s0 (generalWord n s).2 := by
  unfold State.generalWord
  dsimp only
  split
  · exact modPosition (hK _ hn) (fun _ => rfl) h
  · split
    · split <;> exact h
    · exact h
    · exact h

theorem takeWord {n : PosId} (hn : branchOf n = b) (h : Eff K s0 s) : Eff K s0 (takeWord n s).2 := by
  unfold State.takeWord
  dsimp only
  split
  · exact generalWord hK hn h
  · exact takeSignWord (hK _ trivial) n _ h
  · exact takePaWord (hK _ trivial) n h
  · exact h

theorem takeEntries (l : List PlaceId) (h : Eff K s0 s) : Eff K s0 (takeEntries b l s).2 := by
  induction l generalizing s with
  | nil => exact h
  | cons p ps ih => exact ih (takeWord hK (branchOf_posIndex b p) h)

theorem beginBurst (h : Eff K s0 s) : Eff K s0 (beginBurst b s) :=
  modBranch (burstK_branch hK) (fun _ => rfl) (takeEntries hK _ h)

theorem trigger (h : Eff K s0 s) : Eff K s0 (trigger s b) := by
  unfold State.trigger
  repeat' split
  all_goals with_reducible first
    | exact h
    | exact beginBurst hK h
    | exact modBranch (burstK_branch hK) (fun _ => rfl) h

theorem abandon (h : Eff K s0 s) : Eff K s0 (abandon b s) := by
  unfold State.abandon
  split
  · exact modBranch (burstK_branch hK) (fun _ => rfl) (foldl _ _ (fun _ _ h => undelivered (hK _ trivial) _ _ h) h)
  · exact h

theorem forgetNodes (h : Eff K s0 s) : Eff K s0 (forgetNodes b s) :=
  foldl _ _ (fun _ p h => modPosition (burstK_position hK p) (fun _ => rfl) h) h

theorem restartBranch (h : Eff K s0 s) : Eff K s0 (restartBranch s b) := by
  unfold State.restartBranch
  exact foldl _ _ (fun _ p h => modPosition (burstK_position hK p) (fun _ => rfl) h)
    (modBranch (burstK_branch hK) (fun _ => rfl) (abandon hK h))

end

theorem triggerAll (hK : ∀ b p, burstK b p → K p) (h : Eff K s0 s) : Eff K s0 (State.triggerAll s) :=
  foldl _ _ (fun _ b h => trigger (hK b) h) h

theorem restartBranches (hK : ∀ b p, burstK b p → K p) (h : Eff K s0 s) : Eff K s0 (State.restartBranches s) :=
  foldl _ _ (fun _ b h => restartBranch (hK b) h) h

/-- The parts that an operation of a Branch Engine touches. -/
def chainK (b : BranchId) (p : Part) : Prop :=
  (∃ z, zoneK z p) ∨ burstK b p ∨ match p with
    | .slot _ => True
    | _ => False

section

variable {b : BranchId} (hK : ∀ p, chainK b p → K p)

include hK

theorem chainK_zone (z : ZoneId) (p : Part) (h : zoneK z p) : K p := hK p (.inl ⟨z, h⟩)

theorem chainK_react (p : Part) (h : reactK p) : K p := chainK_zone hK 0 p (.inl ⟨0, .inl (.inl (.inl h))⟩)

theorem chainK_events : K .events := chainK_react hK _ trivial

theorem chainK_burst (p : Part) (h : burstK b p) : K p := hK p (.inr (.inl h))

theorem chainK_calls : K .calls := chainK_burst hK _ trivial

theorem chainK_branch : K (.branch b) := chainK_burst hK _ rfl

theorem notify (n : PosId) (c : NodeClass) (z : Option ZoneId) (f : Bool) (x : NodeNotice) (h : Eff K s0 s) :
    Eff K s0 (notify n c z f x s) := by
  unfold State.notify
  extract_lets s1 s2
  have h1 : Eff K s0 s1 := by
    show Eff K s0 (match c, x with
      | .sign, .present => State.signBack n z s
      | .sign, .notPresent _ => State.signAway n s
      | .pa, .notPresent _ => State.paAway n s
      | _, _ => s)
    split
    · exact signBack (chainK_calls hK) n _ h
    · exact signAway (chainK_calls hK) n h
    · exact paAway (chainK_calls hK) n h
    · exact h
  have h2 : Eff K s0 s2 := by
    show Eff K s0 (match z with
      | some z => State.zoneNotice z f c x s1
      | none => s1)
    split
    · exact zoneNotice (chainK_zone hK _ _ (.inr rfl)) _ _ _ h1
    · exact h1
  split
  · exact h2
  · exact changed (chainK_react hK) _ h2

theorem notifyOwn (n : PosId) (x : NodeNotice) (h : Eff K s0 s) : Eff K s0 (notifyOwn n x s) := notify hK _ _ _ _ _ h

theorem missReply {n : PosId} (hn : branchOf n = b) (h : Eff K s0 s) : Eff K s0 (missReply n s) := by
  unfold State.missReply
  extract_lets x run s1 s2 s3
  have h1 : Eff K s0 s1 := modPosition (chainK_burst hK _ hn) (fun _ => rfl) h
  split
  · exact notifyOwn hK _ _ (post (chainK_events hK) _ _ _ (modPosition (chainK_burst hK _ hn) (fun _ => rfl) h1))
  · exact h1

theorem nodeSeen {n : PosId} (hn : branchOf n = b) (h : Eff K s0 s) : Eff K s0 (nodeSeen n s) := by
  have h1 := modPosition (chainK_burst hK (.position n) hn)
    (f := fun y => { y with missRun := 0, presence := .present }) (fun _ => rfl) h
  unfold State.nodeSeen
  dsimp only
  split
  · exact h1
  · exact notifyOwn hK _ _ (post (chainK_events hK) _ _ _ h1)

theorem deliverReply {n : PosId} (hn : branchOf n = b) (c : NodeClass) (z : Option ZoneId) (v : Word) (h : Eff K s0 s) :
    Eff K s0 (deliverReply n c z v s) := by
  unfold State.deliverReply
  extract_lets old s1 s2
  have h1 : Eff K s0 s1 := modPosition (chainK_burst hK _ hn) (fun _ => rfl) h
  have h2 : Eff K s0 s2 := by
    show Eff K s0 (match c with
      | .general => State.holdReply n v s1
      | .sign => State.signReply n (v.getLsbD 0) s1
      | .pa => State.paReply n v s1
      | .sensor => match z with
        | some z => State.sensorReply z v s1
        | none => s1)
    split
    · exact holdReply (fun _ => hK _ (.inr (.inr trivial))) n v h1
    · exact signReply (chainK_calls hK) n _ h1
    · exact paReply (chainK_calls hK) n v h1
    · split
      · exact sensorReply (chainK_zone hK _) v h1
      · exact h1
  split
  · exact h2
  · exact changed (chainK_react hK) _ h2

theorem takeReply (r : BurstRecord) (x : BurstEntry × Option ChainWord) (h : Eff K s0 s) :
    Eff K s0 (takeReply b r s x) := by
  have hn := branchOf_posIndex b x.1.place
  unfold State.takeReply
  dsimp only
  repeat' split
  · exact deliverReply hK hn _ _ _ (nodeSeen hK hn h)
  · exact h
  · exact missReply hK hn h
  · exact h

theorem takeReplies (r : BurstRecord) (l : List (Option ChainWord)) (h : Eff K s0 s) :
    Eff K s0 (takeReplies b r l s) := by
  unfold State.takeReplies
  split
  · exact foldl _ _ (fun _ x h => takeReply hK _ x h) h
  · exact h

theorem clearRun (h : Eff K s0 s) : Eff K s0 (clearRun b s) := by
  refine modBranch (chainK_branch hK) (fun _ => rfl) ?_
  split
  · exact post (chainK_events hK) _ _ _ h
  · exact h

theorem growRun (h : Eff K s0 s) : Eff K s0 (growRun b s) := by
  refine modBranch (chainK_branch hK) (fun _ => rfl) ?_
  split
  · exact post (chainK_events hK) _ _ _ h
  · exact h

theorem takeReturn (r : BurstRecord) (ret : ReturnStream) (h : Eff K s0 s) : Eff K s0 (takeReturn b r ret s) := by
  unfold State.takeReturn
  split
  · exact takeReplies hK _ _ h
  · exact growRun hK h
  · split
    · exact clearRun hK (takeReplies hK _ _ h)
    · exact growRun hK h

theorem endBurst (ret : ReturnStream) (h : Eff K s0 s) : Eff K s0 (endBurst b ret s) := by
  unfold State.endBurst
  split
  · rename_i r _ _
    extract_lets s1 s2 again s3
    have h3 : Eff K s0 s3 := modBranch (chainK_branch hK) (fun _ => rfl)
      (foldl _ _ (fun _ n h => burstDelivered (chainK_calls hK) n h) (takeReturn hK r ret h))
    split
    · exact beginBurst (chainK_burst hK) h3
    · exact h3
  · exact h

theorem tellAway (why : AwayCause) (h : Eff K s0 s) : Eff K s0 (tellAway b why s) :=
  foldl _ _ (fun _ _ h => notifyOwn hK _ _ h) h

theorem contend (h : Eff K s0 s) : Eff K s0 (contend b s) := by
  unfold State.contend
  dsimp only
  split
  · exact tellAway hK _ (post (chainK_events hK) _ _ _ (forgetNodes (chainK_burst hK)
      (modBranch (chainK_branch hK) (fun _ => rfl) (abandon (chainK_burst hK) h))))
  · exact h

theorem disableBranch (h : Eff K s0 s) : Eff K s0 (disableBranch b s) := by
  unfold State.disableBranch
  split
  · exact h
  · exact tellAway hK _ (forgetNodes (chainK_burst hK)
      (modBranch (chainK_branch hK) (fun _ => rfl) (abandon (chainK_burst hK) h)))

theorem enableBranch (h : Eff K s0 s) : Eff K s0 (enableBranch b s).1 := by
  unfold State.enableBranch
  repeat' split
  all_goals with_reducible first
    | exact h
    | exact modBranch (chainK_branch hK) (fun _ => rfl) h

theorem writeBranch (hc : K (.branchCfg b)) (new : BranchCfg) (hl : s.unit.lock = false) (h : Eff K s0 s) :
    Eff K s0 (writeBranch b new s) := by
  have h1 := h.step hc (.branchCfg s b new hl)
  unfold State.writeBranch
  dsimp only
  split
  · exact h1
  · exact disableBranch hK h1

theorem writePosition {n : PosId} (hc : K (.positionCfg n)) (hi : ∀ i, K (.route i)) (new : PositionCfg)
    (hl : s.unit.lock = false) (h : Eff K s0 s) : Eff K s0 (writePosition n new s).1 := by
  have h1 := h.step hc (.positionCfg s n (fun x => { x with cfg := new }) hl)
  have h2 : Eff K s0 (State.resetPosition n new s) := h.step hc (.positionCfg s n _ hl)
  unfold State.writePosition
  extract_lets old edited judged plain
  have h3 : Eff K s0 edited := notify hK n old.cls old.zone old.fixed (.notPresent .edit) h2
  have h4 : Eff K s0 judged := by
    show Eff K s0 (if _ then _ else _)
    split
    · exact notifyOwn hK n .fixedChanged h3
    · exact h3
  have h5 : Eff K s0 plain := h1
  repeat' split
  all_goals with_reducible first
    | exact h
    | exact h2
    | exact h1
    | exact h5
    | exact voidRoutes hi n h4
    | exact h4
    | exact notifyOwn hK n .fixedChanged h5

end

/-! ### RESTART -/

/-- The parts that RESTART touches: what a unit, a chain or a slot can change, the reply and the events, and the claims. -/
def restartK (p : Part) : Prop :=
  unitK p ∨ (∃ b, chainK b p) ∨ match p with
    | .drain | .sweep => True
    | _ => False

theorem restartPart (hK : ∀ p, restartK p → K p) (h : Eff K s0 s) : Eff K s0 (State.restartPart s) := by
  have hU : ∀ p, unitK p → K p := fun p h => hK p (.inl h)
  have hB : ∀ b p, chainK b p → K p := fun b p h => hK p (.inr (.inl ⟨b, h⟩))
  have hC : ∀ p, callK p → K p := zoneK_call (unitK_zone hU 0)
  unfold State.restartPart State.restartClaiming State.restartQuiet
  dsimp only
  refine foldl _ _ (fun _ r h => restartRamp (unitK_ramp hU r) _ h) ?_
  refine restartDoors (unitK_door hU) _ ?_
  refine foldl _ _ (fun _ r h => restartBeacon (unitK_ramp hU r) h) ?_
  refine foldl _ _ (fun _ d h => restartClaims (unitK_door hU d) h) ?_
  refine restartZones (unitK_zone hU) (restartCalls hC (restartLines (unitK_react hU) (hK _ (.inr (.inr trivial))) ?_))
  refine foldl _ _ (fun _ r h => restartRampFields (unitK_ramp hU r) h) ?_
  refine foldl _ _ (fun _ z h => modWarning (unitK_door hU 0 _ (.inl (.inr trivial))) _ _ h) ?_
  refine foldl _ _ (fun _ d h => restartDoorFields (unitK_door hU d) h) ?_
  refine restartPool (unitK_react hU) (hC _ (.inr trivial)) (restartRoutes (fun _ => hB 0 _ (.inr (.inr trivial))) ?_)
  exact restartBranches (fun b p h => hB b p (.inr (.inl h))) (h.step (hK _ (.inr (.inr trivial))) (.wipe _))

end Eff

end Sys2Proof.Machine
end

