-- ==== Sys2Proof/Laws/EffectsOfCommands.lean ====
section
/-! SUPPORT. What requests, frames and commands can do (Machine/Reads, Requests, Trunk and Dispatch). -/

namespace Sys2Proof.Machine

namespace Eff

open State

variable {K : Part → Prop} {s0 s : State}

/-! ### Reads: free values only -/

section

variable (hK : K .free)

include hK

theorem drawFree (h : Eff K s0 s) : Eff K s0 s.drawFree.2 := h.step hK (.free _)

theorem misread (e : Misread) (h : Eff K s0 s) : Eff K s0 (s.misread e).1 := by
  cases e
  · exact drawFree hK h
  · exact h

theorem countWord (n : Nat) (h : Eff K s0 s) : Eff K s0 (countWord n s).2 := by
  unfold State.countWord
  split
  · exact h
  · exact drawFree hK h

theorem timeLeft (u : Nat) (t : Timer) (h : Eff K s0 s) : Eff K s0 (timeLeft u t s).2 := by
  unfold State.timeLeft
  split
  · exact h
  · split
    · exact countWord hK _ h
    · exact countWord hK _ (drawFree hK h)

theorem readItems (l : List ProgressItem) (h : Eff K s0 s) : Eff K s0 (State.readItems l s).1 := by
  induction l generalizing s with
  | nil => exact h
  | cons i is ih => exact ih (timeLeft hK _ _ h)

omit hK in
theorem readObject {ι : Type} (i : Option ι) {f : ι → State → State × List Word} (hf : ∀ i, Eff K s0 (f i s).1)
    (h : Eff K s0 s) : Eff K s0 (readObject i f s).1 := by
  unfold State.readObject
  split
  · exact hf _
  · exact h

theorem stateRead (k i : Word) (h : Eff K s0 s) : Eff K s0 (stateRead k i s).1 := by
  have hd (d) : Eff K s0 (readDoorState d s).1 := timeLeft hK 1000 (s.door d).timer h
  have hr (r) : Eff K s0 (readRampState r s).1 := timeLeft hK 1000 (s.ramp r).grace h
  have hz (z) : Eff K s0 (readZoneState z s).1 := timeLeft hK 1000 (s.zone z).window h
  have hc (c) : Eff K s0 (readChannelState c s).1 := countWord hK _ (countWord hK _ (countWord hK _ h))
  unfold State.stateRead
  split
  · exact readObject _ hd h
  · exact readObject _ hr h
  · exact readObject _ hz h
  · exact readObject _ (fun _ => h) h
  · exact readObject _ (fun _ => h) h
  · exact readObject _ hc h
  · exact readObject _ (fun _ => h) h
  · split
    · split
      · exact readItems hK _ h
      · exact h
    · exact h
  · exact h

end

theorem readEntry {ι : Type} (i : Option ι) (f : ι → List Word) (h : Eff K s0 s) : Eff K s0 (readEntry i f s).1 := by
  unfold State.readEntry
  split <;> exact h

theorem tableRead (t i : Word) (h : Eff K s0 s) : Eff K s0 (tableRead t i s).1 := by
  unfold State.tableRead
  split <;> first
    | exact readEntry _ _ h
    | exact h

/-! ### Writes of the tables -/

theorem answer (hK : K .reply) (src : Source) (o t : Byte) {r : Answered} (h : Eff K s0 r.1) :
    Eff K s0 (answer src o t r) := by
  unfold State.answer
  split
  · exact h.step hK (.reply _ _)
  · exact h

theorem execute (hK : K .reply) (src : Source) (o t : Byte) {f : State → Answered} (hf : Eff K s0 (f s).1)
    (h : Eff K s0 s) : Eff K s0 (execute src o t f s) := by
  unfold State.execute
  split
  · exact answer hK src o t hf
  · exact h

theorem putEntry (hK : K .free) {ι α : Type} (i : Option ι) (x : Read α) {put : ι → α → State → Answered}
    (hp : ∀ i a, Eff K s0 (put i a s).1) (h : Eff K s0 s) : Eff K s0 (putEntry i x put s).1 := by
  unfold State.putEntry
  split
  · exact h
  · exact misread hK _ h
  · exact hp _ _

/-- A table that the lock freezes is written in an unlocked part only. -/
theorem unlessLocked {f : State → Answered} (hf : s.unit.lock = false → Eff K s0 (f s).1) (h : Eff K s0 s) :
    Eff K s0 (unlessLocked f s).1 := by
  unfold State.unlessLocked
  split
  · exact h
  · rename_i hl; exact hf (by simpa using hl)

theorem putJunction (hj : K .junction) (hK : ∀ p, reactK p → K p) (i : Fin 1) (new : JunctionCfg) (h : Eff K s0 s) :
    Eff K s0 (putJunction i new s).1 := by
  unfold State.putJunction
  dsimp only
  split
  · exact h
  · rename_i hl
    split
    · exact h
    · rename_i hg
      have h1 := h.step hj (.junction s new (by intro hk; simpa [hk] using hl) (by omega))
      split
      · exact tell signal hK (settle hK h1)
      · exact h1

theorem putBranch (b : BranchId) (hK : ∀ p, chainK b p → K p) (hc : K (.branchCfg b)) (new : BranchCfg)
    (h : Eff K s0 s) : Eff K s0 (putBranch b new s).1 := unlessLocked (fun hl => writeBranch hK hc new hl h) h

theorem putPosition (n : PosId) (hK : ∀ p, chainK (branchOf n) p → K p) (hc : K (.positionCfg n))
    (hi : ∀ i, K (.route i)) (new : PositionCfg) (h : Eff K s0 s) : Eff K s0 (putPosition n new s).1 :=
  unlessLocked (fun hl => writePosition hK hc hi new hl h) h

theorem putPin (p : PinId) (hK : ∀ p, unitK p → K p) (hc : K (.pinCfg p)) (hd : K (.dropPin p)) (new : PinCfg)
    (h : Eff K s0 s) : Eff K s0 (putPin p new s).1 := by
  refine unlessLocked (fun hl => ?_) h
  dsimp only
  split
  · exact h
  · rename_i ht
    split
    · exact h
    · exact writePin hK hc hd new hl (by simpa using ht) h

theorem putChannel (c : ChanId) (hK : ∀ p, unitK p → K p) (hc : K (.channelCfg c)) (new : ChannelCfg)
    (h : Eff K s0 s) : Eff K s0 (putChannel c new s).1 := by
  refine unlessLocked (fun hl => ?_) h
  split
  · exact h
  · rename_i hn; exact writeChannel hK hc new hl hn h

theorem putChime (k : ChimeId) (hc : K (.chimeCfg k)) (new : ChimeCfg) (h : Eff K s0 s) :
    Eff K s0 (putChime k new s).1 := h.step hc (.chimeCfg _ _ _)

theorem putZone (z : ZoneId) (hK : ∀ p, zoneK z p → K p) (hc : K (.zoneCfg z)) (new : ZoneCfg) (h : Eff K s0 s) :
    Eff K s0 (putZone z new s).1 := by
  unfold State.putZone
  split
  · exact h
  · exact writeZone hK hc new h

theorem putDoor (d : DoorId) (hK : ∀ p, doorK d p → K p) (hc : K (.doorCfg d)) (new : DoorCfg) (h : Eff K s0 s) :
    Eff K s0 (putDoor d new s).1 := writeDoor hK hc new h

theorem putRamp (r : RampId) (hK : ∀ p, rampK r p → K p) (hc : K (.rampCfg r)) (new : RampCfg) (h : Eff K s0 s) :
    Eff K s0 (putRamp r new s).1 := writeRamp hK hc new h

theorem putPermit (k : PermitId) (hK : ∀ p, reactK p → K p) (hc : K (.permitCfg k)) (e : PermitEntry)
    (h : Eff K s0 s) : Eff K s0 (putPermit k e s).1 := by
  unfold State.putPermit
  split
  · exact h
  · dsimp only
    unfold State.writePermit
    split
    · exact h
    · refine foldl _ _ (fun s r h => ?_) (h.step hc (.permitCfg _ _ _))
      split
      · exact judgeWith signal hK r h
      · exact h

theorem putRoute (hF : K .free) (hR : ∀ i, K (.route i)) (i : Word) (ws : List Word) (h : Eff K s0 s) :
    Eff K s0 (putRoute i ws s).1 := by
  have hp (i) (x) : Eff K s0 (State.writeRoute i x s).1 := writeRoute (hR i) x h
  exact putEntry hF _ _ hp h

theorem tableWrite (hK : ∀ p, p ≠ .trunk → K p) (hU : ∀ p, unitK p → K p) (hB : ∀ b p, chainK b p → K p)
    (t i : Word) (ws : List Word) (h : Eff K s0 s) : Eff K s0 (tableWrite t i ws s).1 := by
  have hF : K .free := hK _ nofun
  unfold State.tableWrite
  split
  · exact putEntry hF _ _ (fun i x => putJunction (hK _ nofun) (unitK_react hU) i x h) h
  · exact putEntry hF _ _ (fun i x => putBranch i (hB i) (hK _ nofun) x h) h
  · exact putEntry hF _ _ (fun i x => putPosition i (hB _) (hK _ nofun) (fun _ => hK _ nofun) x h) h
  · exact putRoute hF (fun i => hK (.route i) nofun) _ _ h
  · exact putEntry hF _ _ (fun i x => putPin i hU (hK _ nofun) (hK _ nofun) x h) h
  · exact putEntry hF _ _ (fun i x => putChannel i hU (hK _ nofun) x h) h
  · exact putEntry hF _ _ (fun i x => putChime i (hK _ nofun) x h) h
  · exact putEntry hF _ _ (fun i x => putZone i (unitK_zone hU i) (hK _ nofun) x h) h
  · exact putEntry hF _ _ (fun i x => putDoor i (unitK_door hU i) (hK _ nofun) x h) h
  · exact putEntry hF _ _ (fun i x => putRamp i (unitK_ramp hU i) (hK _ nofun) x h) h
  · exact putEntry hF _ _ (fun i x => putPermit i (unitK_react hU) (hK _ nofun) x h) h
  · exact h

/-! ### The other requests -/

theorem blockWrite (hF : K .free) (hc : K .calls) (hb : ∀ k, K (.block k)) (ws : List Word) (h : Eff K s0 s) :
    Eff K s0 (blockWrite ws s).1 := by
  unfold State.blockWrite
  split
  · exact misread hF _ h
  · dsimp only
    split
    · exact h
    · exact h
    · rename_i k row _ _
      have h1 := h.step (hb k) (.block s k fun b => storeRow b row ws.tail)
      dsimp only
      exact blockWritten hc k h1

theorem configLock (hF : K .free) (hl : K .lock) (ws : List Word) (h : Eff K s0 s) : Eff K s0 (configLock ws s).1 := by
  unfold State.configLock
  split
  · exact h.step hl (.lock _)
  · exact misread hF _ h

theorem restartRequest (hF : K .free) (hK : ∀ p, restartK p → K p) (ws : List Word) (h : Eff K s0 s) :
    Eff K s0 (restartRequest ws s).1 := by
  unfold State.restartRequest
  split
  · dsimp only
    exact restartPart hK h
  · exact misread hF _ h

section

variable (hK : ∀ p, callK p → K p)

include hK

theorem postCall (c : Call) (h : Eff K s0 s) : Eff K s0 (postCall c s).1 := by
  unfold State.postCall
  dsimp only
  split
  · exact h
  · split
    · exact h
    · split
      · exact h
      · rename_i t he; exact selectCalls hK _ (enqueue hK he h)

theorem callPost (hF : K .free) (ws : List Word) (h : Eff K s0 s) : Eff K s0 (callPost ws s).1 := by
  unfold State.callPost
  split
  · exact misread hF _ h
  · exact postCall hK _ h

theorem callCancel (w : Word) (h : Eff K s0 s) : Eff K s0 (callCancel w s).1 := by
  unfold State.callCancel
  split
  · exact h
  · split
    · exact removeCall hK _ _ h
    · exact h

end

theorem onObject {ι : Type} (i : Option ι) {f : ι → State → Answered} (hf : ∀ i, Eff K s0 (f i s).1) (h : Eff K s0 s) :
    Eff K s0 (onObject i f s).1 := by
  unfold State.onObject
  split
  · exact hf _
  · exact h

theorem orState {t : Option State} (ht : ∀ x, t = some x → Eff K s0 x) (h : Eff K s0 s) : Eff K s0 (orState t s).1 := by
  cases t with
  | none => exact h
  | some x => exact ht x rfl

section

variable {d : DoorId} (hK : ∀ p, doorK d p → K p)

include hK

theorem doorCloseOn (h : Eff K s0 s) : Eff K s0 (doorCloseOn d s).1 := orState (fun _ he => closeDoor hK he h) h

theorem doorReopenOn (h : Eff K s0 s) : Eff K s0 (doorReopenOn d s).1 := by
  unfold State.doorReopenOn
  repeat' split
  all_goals with_reducible first
    | exact h
    | exact reopenDoor hK h

theorem doorDisableOn (h : Eff K s0 s) : Eff K s0 (doorDisableOn d s).1 := by
  unfold State.doorDisableOn
  dsimp only
  split
  · exact modDoor (doorK_door hK) (fun _ => rfl) h
  · exact doorOp (doorK_warn hK) d (leaveService hK _ h)

theorem doorEnableOn (h : Eff K s0 s) : Eff K s0 (doorEnableOn d s).1 := by
  have h1 := doorOp (body := State.tryService d) (doorK_warn hK) d (tryService hK h)
  unfold State.doorEnableOn
  repeat' split
  all_goals with_reducible first
    | exact h
    | exact h1

theorem doorAckOn (h : Eff K s0 s) : Eff K s0 (doorAckOn d s).1 := by
  have h1 := doorOp (body := State.deriveDoor d) (doorK_warn hK) d (deriveDoor hK h)
  unfold State.doorAckOn
  split
  · dsimp only
    exact h1
  · exact h

end

section

variable {r : RampId} (hK : ∀ p, rampK r p → K p)

include hK

theorem rampStopOn (h : Eff K s0 s) : Eff K s0 (rampStopOn r s).1 := stopRamp hK h

theorem rampAckOn (h : Eff K s0 s) : Eff K s0 (rampAckOn r s).1 := by
  unfold State.rampAckOn
  split
  · exact deriveRamp hK h
  · exact h

theorem rampDisableOn (h : Eff K s0 s) : Eff K s0 (rampDisableOn r s).1 := disableRamp hK h

theorem rampEnableOn (h : Eff K s0 s) : Eff K s0 (rampEnableOn r s).1 := orState (fun _ he => enableRamp hK he h) h

end

theorem branchDisableOn {b : BranchId} (hK : ∀ p, chainK b p → K p) (h : Eff K s0 s) :
    Eff K s0 (branchDisableOn b s).1 := disableBranch hK h

theorem mem_of_code {α : Type} {l : List α} {w : Word} {a : α} (h : code? l w = some a) : a ∈ l := by
  unfold code? at h
  exact List.mem_of_getElem? h

theorem objectCommand (hF : K .free) {ι : Type} (o : Word → Option ι) {l : List (ι → State → Answered)} (ws : List Word)
    (hl : ∀ f ∈ l, ∀ i, Eff K s0 (f i s).1) (h : Eff K s0 s) : Eff K s0 (objectCommand o l ws s).1 := by
  unfold State.objectCommand
  split
  · split
    · exact h
    · exact h
    · rename_i hf; exact hl _ (mem_of_code hf) _
  · exact misread hF _ h

/-- A request can change every part but the trunk port. -/
theorem perform (hK : ∀ p, p ≠ .trunk → K p) (hU : ∀ p, unitK p → K p) (hB : ∀ b p, chainK b p → K p)
    (q : Request) (h : Eff K s0 s) : Eff K s0 (perform q s).1 := by
  have hF : K .free := hK _ nofun
  have hR : ∀ p, restartK p → K p := fun p hp => hp.elim (hU p) fun hp => hp.elim (fun ⟨b, hb⟩ => hB b p hb) fun hp =>
    hK p fun e => by subst e; exact hp
  have hC : ∀ p, callK p → K p := zoneK_call (unitK_zone hU 0)
  unfold State.perform
  split
  · exact tableWrite hK hU hB _ _ _ h
  · exact tableRead _ _ h
  · exact blockWrite hF (hK _ nofun) (fun _ => hK _ nofun) _ h
  · exact stateRead hF _ _ h
  · exact configLock hF (hK _ nofun) _ h
  · exact restartRequest hF hR _ h
  · refine objectCommand hF _ _ (fun f hf z => ?_) h
    simp only [zoneCommands, List.mem_cons, List.not_mem_nil, or_false] at hf
    rcases hf with rfl | rfl | rfl | rfl | rfl
    · exact setAlarmZone (unitK_zone hU z) h
    · exact evacuateZone (unitK_zone hU z) h
    · exact clearZone (unitK_zone hU z) h
    · exact isolateZone (unitK_zone hU z) h
    · exact restoreZone (unitK_zone hU z) h
  · refine objectCommand hF _ _ (fun f hf d => ?_) h
    simp only [doorCommands, List.mem_cons, List.not_mem_nil, or_false] at hf
    rcases hf with rfl | rfl | rfl | rfl | rfl
    · exact doorCloseOn (unitK_door hU d) h
    · exact doorReopenOn (unitK_door hU d) h
    · exact doorDisableOn (unitK_door hU d) h
    · exact doorEnableOn (unitK_door hU d) h
    · exact doorAckOn (unitK_door hU d) h
  · refine objectCommand hF _ _ (fun f hf r => ?_) h
    simp only [rampCommands, List.mem_cons, List.not_mem_nil, or_false] at hf
    rcases hf with rfl | rfl | rfl | rfl
    · exact rampStopOn (unitK_ramp hU r) h
    · exact rampAckOn (unitK_ramp hU r) h
    · exact rampDisableOn (unitK_ramp hU r) h
    · exact rampEnableOn (unitK_ramp hU r) h
  · refine objectCommand hF _ _ (fun f hf b => ?_) h
    simp only [branchCommands, List.mem_cons, List.not_mem_nil, or_false] at hf
    rcases hf with rfl | rfl
    · exact enableBranch (hB b) h
    · exact branchDisableOn (hB b) h
  · exact callPost hC hF _ h
  · exact callCancel hC _ h
  · refine objectCommand hF _ _ (fun f hf p => ?_) h
    obtain ⟨t, _, rfl⟩ := List.mem_map.mp hf
    exact setOutput (fun x hx => hK x fun e => by subst e; exact hx.elim id id) t h
  · split
    · exact misread hF _ h
    · exact h

/-! ### Frames -/

section

variable (hK : ∀ p, K p)

include hK

theorem takeRequest (src : Source) (q : Request) (h : Eff K s0 s) : Eff K s0 (takeRequest src q s) :=
  execute (hK _) src _ _ (perform (fun p _ => hK p) (fun p _ => hK p) (fun _ p _ => hK p) q h) h

theorem takeItem (x : Fin 66 × Word) (h : Eff K s0 s) : Eff K s0 (takeItem s x) := by
  unfold State.takeItem
  split
  · exact slotWord (hK _) (fun _ => hK _) _ h
  · exact takeMotion (fun p _ => hK p) _ h

theorem afterBuild (k : Parts) (h : Eff K s0 s) : Eff K s0 (s.afterBuild k) := by
  unfold State.afterBuild
  extract_lets t1 t2
  have h1 : Eff K s0 t1 := by
    show Eff K s0 (if _ then _ else _)
    split
    · exact h.step (hK _) (.drain _ _)
    · exact h
  have h2 : Eff K s0 t2 := foldl _ _ (fun _ x h => reportItem (fun _ => hK _) x h) h1
  split
  · exact h2.step (hK _) (.reply _ _)
  · exact h2

theorem actOn (c : Carried) (k : Parts) (h : Eff K s0 s) : Eff K s0 (actOn c k s) := by
  have h1 := foldl _ c.items (fun _ x h => takeItem hK x h) h
  unfold State.actOn
  dsimp only
  split
  · split
    · exact takeRequest hK _ _ h1
    · exact h1
  · exact h1

theorem takeOwn (x : Segment) (n : Nat) (h : Eff K s0 s) : Eff K s0 (takeOwn x n s).2 := by
  have h1 := modTrunk (hK _) (fun u => { u with rejected := (readCommand x.body).isNone }) h
  unfold State.takeOwn
  dsimp only
  split
  · exact h
  · dsimp only
    split
    · exact actOn hK _ _ (afterBuild hK _ h1)
    · exact afterBuild hK _ h1

theorem takeBroadcast (x : Segment) (h : Eff K s0 s) : Eff K s0 (takeBroadcast x s) := by
  unfold State.takeBroadcast
  split
  · split
    · exact takeRequest hK _ _ h
    · exact h
  · exact h

theorem takeSegments (n : Nat) (seen : Bool) (l : List Segment) (h : Eff K s0 s) :
    Eff K s0 (takeSegments n seen l s).2 := by
  induction l generalizing s seen with
  | nil => exact h
  | cons x xs ih =>
    refine ih _ ?_
    split
    · exact takeBroadcast hK x h
    · split
      · exact takeOwn hK x _ h
      · exact h

theorem emit (ws : List Word) (h : Eff K s0 s) : Eff K s0 (emit ws s) := modTrunk (hK _) _ h

theorem heard (c : Option Word) (h : Eff K s0 s) : Eff K s0 (heard c s) := by
  unfold State.heard
  extract_lets old s1
  have h1 : Eff K s0 s1 := modTrunk (hK _) _ h
  split
  · exact post (hK _) _ _ _ h1
  · exact h1

theorem takeCyclic (a b : Word) (ws : List Word) (h : Eff K s0 s) : Eff K s0 (takeCyclic a b ws s) := by
  have h1 := heard hK (some b) h
  unfold State.takeCyclic
  dsimp only
  split
  · exact emit hK _ (triggerAll (fun _ p _ => hK p) h1)
  · exact emit hK _ (triggerAll (fun _ p _ => hK p) (takeSegments hK _ _ _ h1))

theorem takeFrame (ws : List Word) (h : Eff K s0 s) : Eff K s0 (takeFrame ws s) := by
  unfold State.takeFrame
  split
  · exact emit hK _ h
  · split
    · split
      · exact takeCyclic hK _ _ _ h
      · exact emit hK _ (heard hK _ h)
    · exact emit hK _ h

theorem silenceExpired (h : Eff K s0 s) : Eff K s0 (silenceExpired s) := by
  unfold State.silenceExpired
  split
  · exact trunkRamps (fun p _ => hK p) (post (hK _) _ _ _ (modTrunk (hK _) _ h))
  · exact h

theorem localCycleExpired (h : Eff K s0 s) : Eff K s0 (localCycleExpired s) := by
  unfold State.localCycleExpired
  split
  · exact triggerAll (fun _ p _ => hK p) (modTrunk (hK _) _ h)
  · exact h

end

end Eff

/-! ### Commands -/

/-- Every command but HARD_RESET comes to a next state by the small changes. -/
theorem exec_eff (c : Instr) (s : State) (hc : ∀ x, c ≠ .hardReset x) :
    ∃ t, exec c s = .next t ∧ Eff (fun _ => True) s t := by
  have ex (src : Source) (o t : Byte) {f : State → Answered} (hf : Eff (fun _ => True) s (f s).1) :
      Eff (fun _ => True) s (s.execute src o t f) := Eff.execute trivial src o t hf .refl
  have put {ι α : Type} (i : Option ι) (x : Read α) {f : ι → α → State → Answered}
      (hf : ∀ i a, Eff (fun _ => True) s (f i a s).1) : Eff (fun _ => True) s (State.putEntry i x f s).1 :=
    Eff.putEntry trivial i x hf .refl
  have on {ι : Type} (i : Option ι) {f : ι → State → Answered} (hf : ∀ i, Eff (fun _ => True) s (f i s).1) :
      Eff (fun _ => True) s (State.onObject i f s).1 := Eff.onObject i hf .refl
  have T {J : Part → Prop} : ∀ p, J p → True := fun _ _ => trivial
  cases c with
  | hardReset x => exact absurd rfl (hc x)
  | frameArrival ws => exact ⟨_, rfl, Eff.takeFrame (fun _ => trivial) ws .refl⟩
  | unknownRequest o t ws => exact ⟨_, rfl, ex _ _ _ (f := fun s => (s, .unknown)) .refl⟩
  | junctionWrite t i ws => exact ⟨_, rfl, ex _ _ _ (put _ _ fun i x => Eff.putJunction trivial T i x .refl)⟩
  | branchWrite t i ws => exact ⟨_, rfl, ex _ _ _ (put _ _ fun i x => Eff.putBranch i T trivial x .refl)⟩
  | positionWrite t i ws => exact ⟨_, rfl, ex _ _ _ (put _ _ fun i x => Eff.putPosition i T trivial (fun _ => trivial) x .refl)⟩
  | routeWrite t i ws => exact ⟨_, rfl, ex _ _ _ (put _ _ (f := State.writeRoute) fun _ x => Eff.writeRoute trivial x .refl)⟩
  | pinWrite t i ws => exact ⟨_, rfl, ex _ _ _ (put _ _ fun i x => Eff.putPin i T trivial trivial x .refl)⟩
  | channelWrite t i ws => exact ⟨_, rfl, ex _ _ _ (put _ _ fun i x => Eff.putChannel i T trivial x .refl)⟩
  | chimeWrite t i ws => exact ⟨_, rfl, ex _ _ _ (put _ _ fun i x => Eff.putChime i trivial x .refl)⟩
  | zoneWrite t i ws => exact ⟨_, rfl, ex _ _ _ (put _ _ fun i x => Eff.putZone i T trivial x .refl)⟩
  | doorWrite t i ws => exact ⟨_, rfl, ex _ _ _ (put _ _ fun i x => Eff.putDoor i T trivial x .refl)⟩
  | rampWrite t i ws => exact ⟨_, rfl, ex _ _ _ (put _ _ fun i x => Eff.putRamp i T trivial x .refl)⟩
  | permitWrite t i ws => exact ⟨_, rfl, ex _ _ _ (put _ _ fun i x => Eff.putPermit i T trivial x .refl)⟩
  | tableRead t k i => exact ⟨_, rfl, ex _ _ _ (Eff.tableRead k i .refl)⟩
  | blockWrite t ws => exact ⟨_, rfl, ex _ _ _ (Eff.blockWrite trivial trivial (fun _ => trivial) ws .refl)⟩
  | stateRead t k i => exact ⟨_, rfl, ex _ _ _ (Eff.stateRead trivial k i .refl)⟩
  | configLock t ws => exact ⟨_, rfl, ex _ _ _ (Eff.configLock trivial trivial ws .refl)⟩
  | restart x t ws => exact ⟨_, rfl, ex _ _ _ (Eff.restartRequest trivial T ws .refl)⟩
  | setAlarm x t w => exact ⟨_, rfl, ex _ _ _ (on _ fun _ => Eff.setAlarmZone T .refl)⟩
  | evacuate x t w => exact ⟨_, rfl, ex _ _ _ (on _ fun _ => Eff.evacuateZone T .refl)⟩
  | clear x t w => exact ⟨_, rfl, ex _ _ _ (on _ fun _ => Eff.clearZone T .refl)⟩
  | isolate x t w => exact ⟨_, rfl, ex _ _ _ (on _ fun _ => Eff.isolateZone T .refl)⟩
  | restore x t w => exact ⟨_, rfl, ex _ _ _ (on _ fun _ => Eff.restoreZone T .refl)⟩
  | doorClose t w => exact ⟨_, rfl, ex _ _ _ (on _ fun _ => Eff.doorCloseOn T .refl)⟩
  | doorReopen t w => exact ⟨_, rfl, ex _ _ _ (on _ fun _ => Eff.doorReopenOn T .refl)⟩
  | doorDisable t w => exact ⟨_, rfl, ex _ _ _ (on _ fun _ => Eff.doorDisableOn T .refl)⟩
  | doorEnable t w => exact ⟨_, rfl, ex _ _ _ (on _ fun _ => Eff.doorEnableOn T .refl)⟩
  | doorAckFault t w => exact ⟨_, rfl, ex _ _ _ (on _ fun _ => Eff.doorAckOn T .refl)⟩
  | rampStop t w => exact ⟨_, rfl, ex _ _ _ (on _ fun _ => Eff.rampStopOn T .refl)⟩
  | rampAckFault t w => exact ⟨_, rfl, ex _ _ _ (on _ fun _ => Eff.rampAckOn T .refl)⟩
  | rampDisable t w => exact ⟨_, rfl, ex _ _ _ (on _ fun _ => Eff.rampDisableOn T .refl)⟩
  | rampEnable t w => exact ⟨_, rfl, ex _ _ _ (on _ fun _ => Eff.rampEnableOn T .refl)⟩
  | branchEnable t w => exact ⟨_, rfl, ex _ _ _ (on _ fun _ => Eff.enableBranch T .refl)⟩
  | branchDisable t w => exact ⟨_, rfl, ex _ _ _ (on _ fun _ => Eff.branchDisableOn T .refl)⟩
  | callPost t ws => exact ⟨_, rfl, ex _ _ _ (Eff.callPost T trivial ws .refl)⟩
  | callCancel x t w => exact ⟨_, rfl, ex _ _ _ (Eff.callCancel T w .refl)⟩
  | outputSetOn t w => exact ⟨_, rfl, ex _ _ _ (on _ fun _ => Eff.setOutput T .on .refl)⟩
  | outputSetFlash t w k => exact ⟨_, rfl, ex _ _ _ (on _ fun _ => Eff.setOutput T (flashSetting k) .refl)⟩
  | outputSetOff t w => exact ⟨_, rfl, ex _ _ _ (on _ fun _ => Eff.setOutput T .off .refl)⟩
  | silenceTimerExpiry => exact ⟨_, rfl, Eff.silenceExpired (fun _ => trivial) .refl⟩
  | localCycleTimerExpiry => exact ⟨_, rfl, Eff.localCycleExpired (fun _ => trivial) .refl⟩
  | burstEnd b x => exact ⟨_, rfl, Eff.endBurst T x .refl⟩
  | returnLineContention b => exact ⟨_, rfl, Eff.contend T .refl⟩
  | rawInputChange p l => exact ⟨_, rfl, Eff.rawChange T trivial l .refl⟩
  | inputFilterExpiry p => exact ⟨_, rfl, Eff.filterExpired T trivial .refl⟩
  | stallCountReached c => exact ⟨_, rfl, Eff.stallReached T c .refl⟩
  | pwmPeriodStart k => exact ⟨_, rfl, Eff.pairPeriod T k .refl⟩
  | pwmDutyEnd k => exact ⟨_, rfl, Eff.pairDutyEnd T k .refl⟩
  | chimeOnExpiry => exact ⟨_, rfl, Eff.burstOver T .refl⟩
  | chimeOffExpiry => exact ⟨_, rfl, Eff.pauseOver T .refl⟩
  | loadGrant => exact ⟨_, rfl, Eff.tell Eff.signal T (Eff.settle T .refl)⟩
  | windowTimerExpiry z => exact ⟨_, rfl, Eff.windowExpired T .refl⟩
  | magnetWarningExpiry d => exact ⟨_, rfl, Eff.warningExpired T .magnet .refl⟩
  | latchWarningExpiry d => exact ⟨_, rfl, Eff.warningExpired T .latch .refl⟩
  | releasePulseExpiry d => exact ⟨_, rfl, Eff.pulseExpired T .refl⟩
  | travelTimerExpiry d => exact ⟨_, rfl, Eff.travelExpired T .refl⟩
  | crewHoldExpiry d => exact ⟨_, rfl, Eff.holdExpired T .refl⟩
  | reopenTimerExpiry d => exact ⟨_, rfl, Eff.reopenExpired T .refl⟩
  | runGraceExpiry r => exact ⟨_, rfl, Eff.graceExpired T .refl⟩
  | unlockTimerExpiry r => exact ⟨_, rfl, Eff.unlockExpired T .refl⟩
  | lockTimerExpiry r => exact ⟨_, rfl, Eff.lockExpired T .refl⟩
  | holdTimerExpiry z => exact ⟨_, rfl, Eff.presentationHeld T z .refl⟩
  | clipTimerExpiry z => exact ⟨_, rfl, Eff.clipExpired T z .refl⟩
  | gapTimerExpiry t z => exact ⟨_, rfl, Eff.gapExpired T t z .refl⟩

end Sys2Proof.Machine
end

