-- ==== Sys2Proof/Laws/Kept.lean ====
section
/-! SUPPORT. What small changes keep: the fields that no change of their parts touches, and the laws of the queue of events, of
the load account, of the pins and of the channels. -/

namespace Sys2Proof.Machine

namespace Eff

open State

variable {K : Part → Prop} {s t : State}

/-! ### Fields -/

theorem pending_eq (h : Eff K s t) : t.pending = s.pending := by
  refine h.keeps (fun t => t.pending = s.pending) (fun p t u _ hc ht => ?_) rfl
  cases hc <;> try exact ht
  unfold bindChannel
  split <;> exact ht

theorem freeSeq_le (h : Eff K s t) : s.freeSeq ≤ t.freeSeq := by
  refine h.keeps (fun t => s.freeSeq ≤ t.freeSeq) (fun p t u _ hc ht => ?_) (Nat.le_refl _)
  cases hc <;> try exact ht
  · exact Nat.le_succ_of_le ht
  · unfold bindChannel
    split <;> exact ht

theorem trunk_eq (h : Eff K s t) (hK : ¬K .trunk) : t.trunk = s.trunk := by
  refine h.keeps (fun t => t.trunk = s.trunk) (fun p t u hp hc ht => ?_) rfl
  cases hc <;> first
    | exact ht
    | exact absurd hp hK
    | (unfold bindChannel; split <;> exact ht)

theorem post_reply (s : State) (k : EventKind) (n : Nat) (w : Word) : (s.post k n w).unit.reply = s.unit.reply := by
  unfold State.post
  simp only [modUnit_unit]
  split <;> rfl

theorem post_lock (s : State) (k : EventKind) (n : Nat) (w : Word) : (s.post k n w).unit.lock = s.unit.lock := by
  unfold State.post
  simp only [modUnit_unit]
  split <;> rfl

theorem post_junction (s : State) (k : EventKind) (n : Nat) (w : Word) :
    (s.post k n w).unit.junction = s.unit.junction := by
  unfold State.post
  simp only [modUnit_unit]
  split <;> rfl

theorem reply_eq (h : Eff K s t) (h1 : ¬K .reply) (h2 : ¬K .drain) : t.unit.reply = s.unit.reply := by
  refine h.keeps (fun t => t.unit.reply = s.unit.reply) (fun p t u hp hc ht => ?_) rfl
  cases hc <;> first
    | exact ht
    | exact (post_reply _ _ _ _).trans ht
    | exact absurd hp h1
    | exact absurd hp h2
    | (unfold bindChannel; split <;> exact ht)

theorem lock_eq (h : Eff K s t) (h1 : ¬K .lock) : t.unit.lock = s.unit.lock := by
  refine h.keeps (fun t => t.unit.lock = s.unit.lock) (fun p t u hp hc ht => ?_) rfl
  cases hc <;> first
    | exact ht
    | exact (post_lock _ _ _ _).trans ht
    | exact absurd hp h1
    | (unfold bindChannel; split <;> exact ht)

theorem junction_eq (h : Eff K s t) (h1 : ¬K .junction) : t.unit.junction = s.unit.junction := by
  refine h.keeps (fun t => t.unit.junction = s.unit.junction) (fun p t u hp hc ht => ?_) rfl
  cases hc <;> first
    | exact ht
    | exact (post_junction _ _ _ _).trans ht
    | exact absurd hp h1
    | (unfold bindChannel; split <;> exact ht)

theorem branches_eq (h : Eff K s t) (h1 : ∀ b, ¬K (.branch b)) (h2 : ∀ b, ¬K (.branchCfg b)) :
    t.branches = s.branches := by
  refine h.keeps (fun t => t.branches = s.branches) (fun p t u hp hc ht => ?_) rfl
  cases hc <;> first
    | exact ht
    | exact absurd hp (h1 _)
    | exact absurd hp (h2 _)
    | (unfold bindChannel; split <;> exact ht)

theorem positions_eq (h : Eff K s t) (h1 : ∀ n, ¬K (.position n)) (h2 : ∀ n, ¬K (.positionCfg n)) :
    t.positions = s.positions := by
  refine h.keeps (fun t => t.positions = s.positions) (fun p t u hp hc ht => ?_) rfl
  cases hc <;> first
    | exact ht
    | exact absurd hp (h1 _)
    | exact absurd hp (h2 _)
    | (unfold bindChannel; split <;> exact ht)

theorem slots_eq (h : Eff K s t) (h1 : ∀ i, ¬K (.slot i)) (h2 : ∀ i, ¬K (.route i)) : t.slots = s.slots := by
  refine h.keeps (fun t => t.slots = s.slots) (fun p t u hp hc ht => ?_) rfl
  cases hc <;> first
    | exact ht
    | exact absurd hp (h1 _)
    | exact absurd hp (h2 _)
    | (unfold bindChannel; split <;> exact ht)

theorem chimes_eq (h : Eff K s t) (h1 : ∀ k, ¬K (.chimeCfg k)) : t.chimes = s.chimes := by
  refine h.keeps (fun t => t.chimes = s.chimes) (fun p t u hp hc ht => ?_) rfl
  cases hc <;> first
    | exact ht
    | exact absurd hp (h1 _)
    | (unfold bindChannel; split <;> exact ht)

theorem permits_eq (h : Eff K s t) (h1 : ∀ k, ¬K (.permitCfg k)) : t.permits = s.permits := by
  refine h.keeps (fun t => t.permits = s.permits) (fun p t u hp hc ht => ?_) rfl
  cases hc <;> first
    | exact ht
    | exact absurd hp (h1 _)
    | (unfold bindChannel; split <;> exact ht)

theorem player_eq (h : Eff K s t) (h1 : ¬K .player) : t.player = s.player := by
  refine h.keeps (fun t => t.player = s.player) (fun p t u hp hc ht => ?_) rfl
  cases hc <;> first
    | exact ht
    | exact absurd hp h1
    | (unfold bindChannel; split <;> exact ht)

theorem calls_eq (h : Eff K s t) (h1 : ¬K .calls) (h2 : ∀ k, ¬K (.block k)) : t.calls = s.calls := by
  refine h.keeps (fun t => t.calls = s.calls) (fun p t u hp hc ht => ?_) rfl
  cases hc <;> first
    | exact ht
    | exact absurd hp h1
    | exact absurd hp (h2 _)
    | (unfold bindChannel; split <;> exact ht)

theorem blocks_eq (h : Eff K s t) (h2 : ∀ k, ¬K (.block k)) : t.calls.blocks = s.calls.blocks := by
  refine h.keeps (fun t => t.calls.blocks = s.calls.blocks) (fun p t u hp hc ht => ?_) rfl
  cases hc with
  | calls _ f hf => exact (hf _).trans ht
  | _ => first
    | exact ht
    | exact absurd hp (h2 _)
    | (unfold bindChannel; split <;> exact ht)

theorem warnings_eq (h : Eff K s t) (h1 : ¬K .warnings) : t.warnings = s.warnings := by
  refine h.keeps (fun t => t.warnings = s.warnings) (fun p t u hp hc ht => ?_) rfl
  cases hc <;> first
    | exact ht
    | exact absurd hp h1
    | (unfold bindChannel; split <;> exact ht)

/-! ### One object of a kind -/

theorem zone_eq (h : Eff K s t) (z : ZoneId) (h1 : ¬K (.zone z)) (h2 : ¬K (.zoneCfg z)) : t.zone z = s.zone z := by
  refine h.keeps (fun t => t.zone z = s.zone z) (fun p t u hp hc ht => ?_) rfl
  cases hc with
  | zone _ y f hf => exact (modZone_zone _ _ _ _).trans ((if_neg fun e => h1 (by rw [e]; exact hp)).trans ht)
  | zoneCfg _ y c => exact (modZone_zone _ _ _ _).trans ((if_neg fun e => h2 (by rw [e]; exact hp)).trans ht)
  | bind => unfold bindChannel; split <;> exact ht
  | _ => exact ht

/-- A door that no change is allowed to touch, and that waits for no grant, is as it was. -/
theorem door_eq (h : Eff K s t) (d : DoorId) (h1 : ¬K (.door d)) (h2 : ¬K (.doorCfg d)) (hg : ¬s.awaitsGrant d) :
    t.door d = s.door d := by
  refine h.keeps (fun t => t.door d = s.door d) (fun p t u hp hc ht => ?_) rfl
  cases hc with
  | door _ e f hf => exact (modDoor_door _ _ _ _).trans ((if_neg fun x => h1 (by rw [x]; exact hp)).trans ht)
  | doorCfg _ e c => exact (modDoor_door _ _ _ _).trans ((if_neg fun x => h2 (by rw [x]; exact hp)).trans ht)
  | opened _ e hs hl =>
    exact (modDoor_door _ _ _ _).trans ((if_neg fun x => hg (.inl (by rw [← ht, x]; exact hs))).trans ht)
  | pulse _ e hs hl =>
    exact (modDoor_door _ _ _ _).trans ((if_neg fun x => hg (.inr (by rw [← ht, x]; exact hs))).trans ht)
  | bind => unfold bindChannel; split <;> exact ht
  | _ => exact ht

/-- A ramp that no change is allowed to touch, and that is not active, is as it was. -/
theorem ramp_eq (h : Eff K s t) (r : RampId) (h1 : ¬K (.ramp r)) (h2 : ¬K (.rampCfg r))
    (hg : (s.ramp r).state.isActive = false) : t.ramp r = s.ramp r := by
  refine h.keeps (fun t => t.ramp r = s.ramp r) (fun p t u hp hc ht => ?_) rfl
  cases hc with
  | ramp _ e f hf => exact (modRamp_ramp _ _ _ _).trans ((if_neg fun x => h1 (by rw [x]; exact hp)).trans ht)
  | rampCfg _ e c => exact (modRamp_ramp _ _ _ _).trans ((if_neg fun x => h2 (by rw [x]; exact hp)).trans ht)
  | motion _ e f ha hf =>
    refine (modRamp_ramp _ _ _ _).trans ((if_neg fun x => ?_).trans ht)
    rw [← x, ht, hg] at ha
    cases ha
  | bind => unfold bindChannel; split <;> exact ht
  | _ => exact ht

theorem otherDoorsKept (h : Eff K s t) {own : DoorId → Prop} (h1 : ∀ d, ¬own d → ¬K (.door d))
    (h2 : ∀ d, ¬own d → ¬K (.doorCfg d)) : s.otherDoorsKept t own :=
  fun d hd hg => h.door_eq d (h1 d hd) (h2 d hd) hg

theorem otherRampsKept (h : Eff K s t) {own : RampId → Prop} (h1 : ∀ r, ¬own r → ¬K (.ramp r))
    (h2 : ∀ r, ¬own r → ¬K (.rampCfg r)) : s.otherRampsKept t own :=
  fun r hr hg => h.ramp_eq r (h1 r hr) (h2 r hr) hg

/-! ### The records of the tables -/

theorem branchCfg_eq (h : Eff K s t) (b : BranchId) (h1 : ¬K (.branchCfg b)) : (t.branch b).cfg = (s.branch b).cfg := by
  refine h.keeps (fun t => (t.branch b).cfg = (s.branch b).cfg) (fun p t u hp hc ht => ?_) rfl
  cases hc with
  | branch _ c f hf =>
    refine Eq.trans ?_ ht
    rw [modBranch_branch]
    split
    · rename_i e; subst e; exact hf _
    · rfl
  | branchCfg _ c x => rw [modBranch_branch, if_neg fun e => h1 (by rw [e]; exact hp)]; exact ht
  | bind => unfold bindChannel; split <;> exact ht
  | _ => exact ht

theorem positionCfg_eq (h : Eff K s t) (n : PosId) (h1 : ¬K (.positionCfg n)) :
    (t.position n).cfg = (s.position n).cfg := by
  refine h.keeps (fun t => (t.position n).cfg = (s.position n).cfg) (fun p t u hp hc ht => ?_) rfl
  cases hc with
  | position _ c f hf =>
    refine Eq.trans ?_ ht
    rw [modPosition_position]
    split
    · rename_i e; subst e; exact hf _
    · rfl
  | positionCfg _ c x => rw [modPosition_position, if_neg fun e => h1 (by rw [e]; exact hp)]; exact ht
  | bind => unfold bindChannel; split <;> exact ht
  | _ => exact ht

theorem entry_eq (h : Eff K s t) (i : SlotId) (h1 : ¬K (.route i)) : (t.slot i).entry = (s.slot i).entry := by
  refine h.keeps (fun t => (t.slot i).entry = (s.slot i).entry) (fun p t u hp hc ht => ?_) rfl
  cases hc with
  | slot _ c f hf =>
    refine Eq.trans ?_ ht
    rw [modSlot_slot]
    split
    · rename_i e; subst e; exact hf _
    · rfl
  | route _ c x => rw [modSlot_slot, if_neg fun e => h1 (by rw [e]; exact hp)]; exact ht
  | bind => unfold bindChannel; split <;> exact ht
  | _ => exact ht

theorem pinCfg_eq (h : Eff K s t) (p : PinId) (h1 : ¬K (.pinCfg p)) : (t.pin p).cfg = (s.pin p).cfg := by
  refine h.keeps (fun t => (t.pin p).cfg = (s.pin p).cfg) (fun x t u hp hc ht => ?_) rfl
  cases hc with
  | pin _ c f hf =>
    refine Eq.trans ?_ ht
    rw [modPin_pin]
    split
    · rename_i e; subst e; exact hf _
    · rfl
  | pinCfg _ c f new hl hf hx => rw [modPin_pin, if_neg fun e => h1 (by rw [e]; exact hp)]; exact ht
  | bind => unfold bindChannel; split <;> exact ht
  | _ => exact ht

theorem channelCfg_eq (h : Eff K s t) (hK : ∀ c, ¬K (.channelCfg c)) (c : ChanId) :
    (t.channel c).cfg = (s.channel c).cfg := by
  refine h.keeps (fun t => (t.channel c).cfg = (s.channel c).cfg) (fun p t u hp hc ht => ?_) rfl
  cases hc with
  | run _ e f hf =>
    refine Eq.trans ?_ ht
    rw [modChannel_channel]
    split <;> rfl
  | bind => exact absurd hp (hK _)
  | retime => exact absurd hp (hK _)
  | _ => exact ht

theorem zoneCfg_eq (h : Eff K s t) (z : ZoneId) (h1 : ¬K (.zoneCfg z)) : (t.zone z).cfg = (s.zone z).cfg := by
  refine h.keeps (fun t => (t.zone z).cfg = (s.zone z).cfg) (fun p t u hp hc ht => ?_) rfl
  cases hc with
  | zone _ c f hf =>
    refine Eq.trans ?_ ht
    rw [modZone_zone]
    split
    · rename_i e; subst e; exact hf _
    · rfl
  | zoneCfg _ c x => rw [modZone_zone, if_neg fun e => h1 (by rw [e]; exact hp)]; exact ht
  | bind => unfold bindChannel; split <;> exact ht
  | _ => exact ht

theorem doorCfg_eq (h : Eff K s t) (d : DoorId) (h1 : ¬K (.doorCfg d)) : (t.door d).cfg = (s.door d).cfg := by
  refine h.keeps (fun t => (t.door d).cfg = (s.door d).cfg) (fun p t u hp hc ht => ?_) rfl
  cases hc with
  | door _ c f hf =>
    refine Eq.trans ?_ ht
    rw [modDoor_door]
    split
    · rename_i e; subst e; exact hf _
    · rfl
  | opened _ c hs hl =>
    refine Eq.trans ?_ ht
    rw [modDoor_door]
    split <;> rfl
  | pulse _ c hs hl =>
    refine Eq.trans ?_ ht
    rw [modDoor_door]
    split <;> rfl
  | doorCfg _ c x => rw [modDoor_door, if_neg fun e => h1 (by rw [e]; exact hp)]; exact ht
  | bind => unfold bindChannel; split <;> exact ht
  | _ => exact ht

theorem rampCfg_eq (h : Eff K s t) (r : RampId) (h1 : ¬K (.rampCfg r)) : (t.ramp r).cfg = (s.ramp r).cfg := by
  refine h.keeps (fun t => (t.ramp r).cfg = (s.ramp r).cfg) (fun p t u hp hc ht => ?_) rfl
  cases hc with
  | ramp _ c f hf =>
    refine Eq.trans ?_ ht
    rw [modRamp_ramp]
    split
    · rename_i e; subst e; exact hf _
    · rfl
  | motion _ c f ha hf =>
    refine Eq.trans ?_ ht
    rw [modRamp_ramp]
    split
    · rename_i e; subst e; exact (hf _).1
    · rfl
  | rampCfg _ c x => rw [modRamp_ramp, if_neg fun e => h1 (by rw [e]; exact hp)]; exact ht
  | bind => unfold bindChannel; split <;> exact ht
  | _ => exact ht

/-- The parts whose changes write a table, the lock or a sign block. -/
def isTable : Part → Bool
  | .lock | .junction | .block _ | .doorCfg _ | .rampCfg _ | .zoneCfg _ | .chimeCfg _ | .permitCfg _ | .route _ | .pinCfg _
  | .channelCfg _ | .positionCfg _ | .branchCfg _ => true
  | _ => false

theorem tables_eq (h : Eff K s t) (hK : ∀ p, isTable p = true → ¬K p) : t.tables = s.tables := by
  unfold tables
  simp only [h.lock_eq (hK _ rfl), h.junction_eq (hK _ rfl), h.branchCfg_eq _ (hK _ rfl), h.positionCfg_eq _ (hK _ rfl),
    h.entry_eq _ (hK _ rfl), h.pinCfg_eq _ (hK _ rfl), h.channelCfg_eq fun _ => hK _ rfl, h.chimes_eq fun _ => hK _ rfl,
    h.zoneCfg_eq _ (hK _ rfl), h.doorCfg_eq _ (hK _ rfl), h.rampCfg_eq _ (hK _ rfl), h.permits_eq fun _ => hK _ rfl,
    h.blocks_eq fun _ => hK _ rfl]

/-! ### The laws -/

/-- The event queue and its flag (R36, R37). -/
theorem eventLaw (h : Eff K s t) (h0 : s.eventLaw) : t.eventLaw := by
  refine h.keeps State.eventLaw (fun p t u _ hc ht => ?_) h0
  cases hc with
  | post _ k n w =>
    unfold State.eventLaw State.post at *
    simp only [modUnit_unit]
    split
    · rename_i hl
      refine ⟨?_, fun _ => by simp⟩
      simp only [List.length_append, List.length_cons, List.length_nil]
      unfold eventLimit at hl
      omega
    · rename_i hl
      refine ⟨ht.1, fun _ e => hl ?_⟩
      rw [e]
      exact Nat.succ_pos _
  | drain _ n =>
    unfold State.eventLaw State.drainEvents at *
    simp only [modUnit_unit]
    refine ⟨by rw [List.length_drop]; omega, fun ho e => ?_⟩
    rw [e] at ho
    simp at ho
  | wipe =>
    unfold State.eventLaw restartUnit
    simp
  | bind => unfold bindChannel; split <;> exact ht
  | _ => exact ht

/-- The granted units fit the budget (R87). -/
theorem loadLaw (h : Eff K s t) (h0 : s.loadLaw) : t.loadLaw := by
  refine h.keeps State.loadLaw (fun p t u _ hc ht => ?_) h0
  cases hc with
  | post _ k n w =>
    unfold State.loadLaw at *
    rw [post_junction]
    exact ht
  | junction _ j hb hg => exact hg
  | settle _ a ha => exact ha.sum ht
  | dropDrive _ r => exact Nat.le_trans (Account.unitsOf_drop _ _) ht
  | dropFor _ f p hp => exact Nat.le_trans (Account.unitsOf_drop _ _) ht
  | dropPin _ p => exact Nat.le_trans (Account.unitsOf_drop _ _) ht
  | sweep _ keep => exact Nat.le_trans (unitsOf_filter _ _) ht
  | bind => unfold bindChannel; split <;> exact ht
  | _ => exact ht

/-- The order of the account (R85, R86). -/
theorem ordered (h : Eff K s t) (h0 : s.account.Ordered) : t.account.Ordered := by
  refine h.keeps (fun t => t.account.Ordered) (fun p t u _ hc ht => ?_) h0
  cases hc with
  | settle _ a ha => exact ha.ordered ht
  | dropDrive _ r => exact Account.ordered_drop ht _
  | dropFor _ f p hp => exact Account.ordered_drop ht _
  | dropPin _ p => exact Account.ordered_drop ht _
  | sweep _ keep => exact ht.sublist List.filter_sublist List.filter_sublist rfl
  | addDrive _ r cls n hn => exact Account.ordered_add ht hn _ _
  | addFor _ f p hp cls n hn => exact Account.ordered_add ht hn _ _
  | addPin _ p cls n hn => exact Account.ordered_add ht hn _ _
  | bind => unfold bindChannel; split <;> exact ht
  | _ => exact ht

theorem claimLaw (h : Eff K s t) (h0 : s.claimLaw) : t.claimLaw :=
  have k := h.ordered ⟨h0.1, h0.2.1, h0.2.2.1, h0.2.2.2⟩
  ⟨k.claimants, k.ages, k.young, k.sorted⟩

/-- Another pin's function is not taken. -/
theorem not_taken {p q : PinId} {f : PinFunction} (h : s.functionTaken p f = false) (hq : q ≠ p)
    (e : (s.pin q).cfg.function = f) : f = .unused ∨ f = .generalIn ∨ f = .generalOut := by
  unfold functionTaken at h
  by_cases h1 : f = .unused
  · exact .inl h1
  by_cases h2 : f = .generalIn
  · exact .inr (.inl h2)
  by_cases h3 : f = .generalOut
  · exact .inr (.inr h3)
  have : (each 32).any (fun q => q != p && (s.pin q).cfg.function == f) = true :=
    List.any_eq_true.mpr ⟨q, List.mem_finRange q, by simp [hq, e]⟩
  simp [h1, h2, h3, this] at h

/-- Each function is held once (R77). -/
theorem pinLaw (h : Eff K s t) (h0 : s.pinLaw) : t.pinLaw := by
  refine h.keeps State.pinLaw (fun x t u _ hc ht => ?_) h0
  cases hc with
  | pin _ c f hf =>
    have e (q) : ((t.modPin c f).pin q).cfg = (t.pin q).cfg := by
      rw [modPin_pin]
      split
      · rename_i e; subst e; exact hf _
      · rfl
    intro p q
    rw [e, e]
    exact ht p q
  | pinCfg _ c f new hl hf hx =>
    have e (q) : ((t.modPin c f).pin q).cfg = if q = c then new else (t.pin q).cfg := by
      rw [modPin_pin]
      split
      · exact hf _
      · rfl
    intro p q
    rw [e, e]
    intro hpq hne
    split at hpq
    · rename_i hp
      rw [if_pos hp]
      rw [if_neg fun hq => hne (hp.trans hq.symm)] at hpq
      exact not_taken hx (fun hq => hne (hp.trans hq.symm)) hpq.symm
    · rename_i hp
      rw [if_neg hp]
      split at hpq
      · rw [hpq]
        exact not_taken hx hp hpq
      · exact ht p q hpq hne
  | bind => unfold bindChannel; split <;> exact ht
  | _ => exact ht

/-- What a channel write without a conflict says (R96). -/
theorem noConflict {c : ChanId} {new : ChannelCfg} (h : s.channelConflict c new = none) :
    (new.binding.isPair = true → c.val % 2 = 0) ∧ s.isSlave c = false
      ∧ ∀ e, e ≠ c → (s.channel e).cfg.binding = new.binding → new.binding = .none := by
  unfold channelConflict at h
  dsimp only at h
  split at h
  · cases h
  · rename_i hn
    simp only [Bool.or_eq_true, not_or, Bool.not_eq_true] at hn
    obtain ⟨⟨⟨h1, h2⟩, _⟩, h4⟩ := hn
    refine ⟨fun hp => ?_, h2, fun e he hb => ?_⟩
    · simp only [hp, Bool.true_and, beq_eq_false_iff_ne, ne_eq] at h1
      omega
    · by_cases hz : new.binding = .none
      · exact hz
      · have : (each 12).any (fun e => e != c && (s.channel e).cfg.binding == new.binding) = true :=
          List.any_eq_true.mpr ⟨e, List.mem_finRange e, by simp [he, hb]⟩
        simp [hz, this] at h4

/-- The odd partner of a bound pair is a slave. -/
theorem partner_isSlave {c : ChanId} (h : s.bindingLaw) (hp : (s.channel c).cfg.binding.isPair = true) :
    s.isSlave (partnerOf c) = true := by
  have h0 := (h.2 c hp).1
  have e : masterOf (partnerOf c) = c := by
    apply Fin.ext
    simp only [masterOf, partnerOf]
    omega
  unfold isSlave
  rw [e, hp]
  simp only [partnerOf, Bool.and_true, beq_iff_eq]
  omega

/-- The bindings (R96). -/
theorem bindingLaw (h : Eff K s t) (h0 : s.bindingLaw) : t.bindingLaw := by
  refine h.keeps State.bindingLaw (fun x t u _ hc ht => ?_) h0
  cases hc with
  | run _ e f hf =>
    have hb (c) : ((t.modChannel e fun x => { x with run := f x.run }).channel c).cfg = (t.channel c).cfg := by
      rw [modChannel_channel]
      split <;> rfl
    refine ⟨fun c d => ?_, fun c => ?_⟩
    · rw [hb, hb]; exact ht.1 c d
    · rw [hb]
      intro hp
      refine ⟨(ht.2 c hp).1, ?_⟩
      have hr := (ht.2 c hp).2
      rw [modChannel_channel]
      split
      · rename_i he
        rw [he] at hr ⊢
        rw [hr]
        exact congrArg _ (hf hr)
      · exact hr
  | retime _ c new r hl hc hb =>
    obtain ⟨_, hs, _⟩ := noConflict hc
    have e (d) : ((t.modChannel c fun x => ⟨new, r x.run⟩).channel d).cfg.binding = (t.channel d).cfg.binding := by
      rw [modChannel_channel]
      split
      · rename_i he; subst he; exact hb
      · rfl
    refine ⟨fun d d' => ?_, fun d => ?_⟩
    · rw [e, e]; exact ht.1 d d'
    · rw [e]
      intro hp
      refine ⟨(ht.2 d hp).1, ?_⟩
      rw [modChannel_channel, if_neg]
      · exact (ht.2 d hp).2
      · intro he
        have := partner_isSlave ht hp
        rw [he, hs] at this
        cases this
  | bind _ c new hl hc =>
    obtain ⟨heven, hs, hheld⟩ := noConflict hc
    have e (d) : (bindChannel c new t).channel d =
        if new.binding.isPair = true ∧ d = partnerOf c then .reset
        else if d = c then ⟨new, new.freshRun⟩ else t.channel d := by
      unfold bindChannel
      dsimp only
      split
      · rename_i hp
        rw [modChannel_channel, modChannel_channel]
        simp [hp]
      · rename_i hp
        rw [modChannel_channel]
        simp [hp]
    have hcp : new.binding.isPair = true → c ≠ partnerOf c := fun hp e => by
      have := congrArg Fin.val e
      simp only [partnerOf] at this
      have := heven hp
      omega
    refine ⟨fun d d' => ?_, fun d => ?_⟩
    · rw [e, e]
      intro hb hne
      split at hb
      · rename_i h1; rw [if_pos h1]; rfl
      · rename_i h1
        rw [if_neg h1]
        split at hb
        · rename_i h2
          rw [if_pos h2]
          split at hb
          · exact hb
          · rw [if_neg fun h3 => hne (h2.trans h3.symm)] at hb
            exact hheld d' (fun h3 => hne (h2.trans h3.symm)) hb.symm
        · rename_i h2
          rw [if_neg h2]
          split at hb
          · exact hb
          · split at hb
            · rw [hb]; exact hheld d h2 hb
            · exact ht.1 d d' hb hne
    · rw [e]
      split
      · intro hp; cases hp
      · split
        · rename_i h2
          subst h2
          intro hp
          refine ⟨heven hp, ?_⟩
          rw [e, if_pos ⟨hp, rfl⟩]
        · rename_i h1 h2
          intro hp
          refine ⟨(ht.2 d hp).1, ?_⟩
          rw [e, if_neg fun h3 => h2 ?_, if_neg fun h3 => ?_]
          · exact (ht.2 d hp).2
          · have := partner_isSlave ht hp
            rw [h3, hs] at this
            cases this
          · have h4 := congrArg Fin.val h3.2
            have h5 := (ht.2 d hp).1
            have h6 := heven h3.1
            apply Fin.ext
            simp only [partnerOf] at h4
            omega
  | _ => exact ht

/-- What the lock freezes (R30). -/
theorem frozen (h : Eff K s t) (h0 : s.unit.lock = true) : s.frozen t := by
  have k : t.unit.lock = true ∧ (∀ p, (t.pin p).cfg = (s.pin p).cfg) ∧ (∀ c, (t.channel c).cfg = (s.channel c).cfg)
      ∧ (∀ b, (t.branch b).cfg = (s.branch b).cfg) ∧ (∀ n, (t.position n).cfg = (s.position n).cfg)
      ∧ t.unit.junction.loadBudget = s.unit.junction.loadBudget := by
    refine h.keeps (fun t => t.unit.lock = true ∧ (∀ p, (t.pin p).cfg = (s.pin p).cfg)
      ∧ (∀ c, (t.channel c).cfg = (s.channel c).cfg) ∧ (∀ b, (t.branch b).cfg = (s.branch b).cfg)
      ∧ (∀ n, (t.position n).cfg = (s.position n).cfg) ∧ t.unit.junction.loadBudget = s.unit.junction.loadBudget)
      (fun x t u _ hc ht => ?_) ⟨h0, fun _ => rfl, fun _ => rfl, fun _ => rfl, fun _ => rfl, rfl⟩
    obtain ⟨t1, t2, t3, t4, t5, t6⟩ := ht
    have one : Eff (fun p => p = x) t u := Eff.refl.step rfl hc
    cases hc with
    | lock => exact ⟨rfl, t2, t3, t4, t5, t6⟩
    | post _ k n w => exact ⟨(post_lock _ _ _ _).trans t1, t2, t3, t4, t5, (by rw [post_junction]; exact t6)⟩
    | junction _ j hb hg => exact ⟨t1, t2, t3, t4, t5, (hb t1).trans t6⟩
    | pinCfg _ p f new hl => rw [t1] at hl; cases hl
    | bind _ c new hl => rw [t1] at hl; cases hl
    | retime _ c new r hl => rw [t1] at hl; cases hl
    | positionCfg _ n f hl => rw [t1] at hl; cases hl
    | branchCfg _ b c hl => rw [t1] at hl; cases hl
    | run _ c f hf => exact ⟨t1, t2, fun c => (one.channelCfg_eq nofun c).trans (t3 c), t4, t5, t6⟩
    | pin _ p f hf => exact ⟨t1, fun p => (one.pinCfg_eq p nofun).trans (t2 p), t3, t4, t5, t6⟩
    | position _ n f hf => exact ⟨t1, t2, t3, t4, fun n => (one.positionCfg_eq n nofun).trans (t5 n), t6⟩
    | branch _ b f hf => exact ⟨t1, t2, t3, fun b => (one.branchCfg_eq b nofun).trans (t4 b), t5, t6⟩
    | _ => exact ⟨t1, t2, t3, t4, t5, t6⟩
  refine ⟨k.1, ?_, ?_, ?_, ?_, k.2.2.2.2.2⟩
  · exact congrArg Vector.ofFn (funext k.2.1)
  · exact congrArg Vector.ofFn (funext k.2.2.1)
  · exact congrArg Vector.ofFn (funext k.2.2.2.1)
  · exact congrArg Vector.ofFn (funext k.2.2.2.2.1)

end Eff

end Sys2Proof.Machine
end

