-- ==== Sys2Proof/Tests/Slice0.lean ====
section
/-! SUPPORT. The model's own tests: the check of form, the check words, one small step for commands of every family, and
for every statement with premises a state and operands that meet them all. -/

namespace Sys2Proof.Tests

set_option Elab.async false

open Sys2Proof Sys2Proof.Machine Sys2Proof.Machine.State

/-! ### Small states -/

def passive : State := State.reset.modTrunk fun u => { u with address := 31 }
def locked : State := State.reset.modUnit fun u => { u with lock := true }
def overflowed : State := State.reset.modUnit fun u => { u with overflow := true, events := [⟨.trunkLost, 0, 0, 0⟩] }
def inLocal : State := State.reset.modTrunk fun u => { u with mode := .localMode, silence := none, localCycle := some 1 }
def pinned (f : PinFunction) : State := State.reset.modPin 0 fun x => { x with cfg := { x.cfg with function := f }, filtered := true }
def outputAt (w : OutputSetting) : State :=
  (State.reset.modPin 31 fun x => { x with cfg := { x.cfg with function := .generalOut }, setting := w }).modChannel 10 fun x =>
    { x with cfg := { x.cfg with binding := .flash2 } }
def levels (f : PinFunction) (filter : Nat) : State :=
  State.reset.modPin 31 fun x => { x with cfg := { x.cfg with function := f, filter := filter }, raw := true, filterTimer := some 1 }
def input (f : PinFunction) : State := State.reset.modPin 31 fun x => { x with cfg := { x.cfg with function := f } }
def detectorAt : State :=
  (input (.detector 7)).modZone 7 fun x => { x with cfg := { x.cfg with threshold := 1 }, state := .normal }
def pointAt : State := (input (.callPoint 7)).modZone 7 fun x => { x with state := .preAlarm, window := some 1 }
def limitAt : State := (input (.doorClosedLimit 23)).modDoor 23 fun x => { x with state := .closing }
def landAt : State := (input (.rampLandLimit 1)).modRamp 1 fun x => { x with state := .lowering }
def waits (n : Nat) : State := (outputAt .on).modAccount fun a => { a with pending := [⟨31, .service, n, 0, false⟩], nextAge := 1 }
def loaded : State :=
  (State.reset.modPin 0 fun x => { x with cfg := { x.cfg with function := .generalOut, units := 1 }, setting := .on }).modAccount
    fun a => { a with granted := [⟨0, .service, 1, 0, false⟩], nextAge := 1 }
def valves : State :=
  (input (.rampRaiseValve 1)).modPin 0 fun x => { x with cfg := { x.cfg with function := .rampLowerValve 1 } }
def lockWaits : State :=
  (input (.rampLock 1)).modAccount fun a => { a with pending := [⟨33, .motion, 16, 0, false⟩], nextAge := 1 }

def fitted : State := State.reset.modPosition 63 fun x => { x with cfg := { x.cfg with enabled := true } }
def routed : State :=
  (State.reset.modPosition 15 fun x => { x with cfg := { x.cfg with enabled := true } }).modSlot 0 fun x =>
    { x with entry := ⟨true, 0, some 15, false⟩ }
def routedLast : State :=
  (State.reset.modPosition 48 fun x => { x with cfg := { x.cfg with enabled := true } }).modSlot 0 fun x =>
    { x with entry := ⟨true, 3, some 0, false⟩ }

def zoneRecord : ZoneCfg :=
  { ZoneCfg.reset with configured := true, fireBlock := some 7, evacClip := some 255, doorBlock := some 0 }
def zoneIn (w : ZoneState) : State :=
  State.reset.modZone 7 fun x => ⟨zoneRecord, w, if w = .preAlarm then some 1 else none, x.fault⟩
def timedZone : State := State.reset.modZone 7 fun x => { x with window := some 65535000 }

def doorIn (w : DoorState) (k : DoorKind) : State :=
  State.reset.modDoor 23 fun x => { x with cfg := { x.cfg with kind := k, enabled := true }, state := w, timer := some 1 }
def swift (w : DoorState) (k : DoorKind) : State :=
  (doorIn w k).modDoor 23 fun x => { x with cfg := { x.cfg with warning := 0 } }
def timedDoor : State := State.reset.modDoor 23 fun x => { x with timer := some 65535000 }
def shutDoor : State :=
  (doorIn .crewHold .magnet).modPin 0 fun x => { x with cfg := { x.cfg with function := .doorClosedLimit 23 }, filtered := true }
def readyDoor : State :=
  ((doorIn .disabled .latch).modPin 0 fun x => { x with cfg := { x.cfg with function := .doorClosedLimit 23 } }).modPin 31
    fun x => { x with cfg := { x.cfg with function := .doorRelease 23 } }

def rampIn (w : RampState) : State :=
  State.reset.modRamp 1 fun x =>
    { x with cfg := { x.cfg with enabled := true }, state := w, timer := some 1, grace := some 1,
             startDir := if w = .raising then .raise else .lower }
def movingRamp : State :=
  (rampIn .locking).modAccount fun a => { a with granted := [⟨33, .motion, 16, 0, false⟩], nextAge := 1 }
def timedRamp : State := State.reset.modRamp 1 fun x => { x with grace := some 65535000 }
def rampPin (s : State) (p : PinId) (f : PinFunction) : State :=
  s.modPin p fun x => { x with cfg := { x.cfg with function := f }, filtered := true }
def lockedRamp : State := rampPin (rampIn .unlocking) 0 (.rampLockedLimit 1)
def landedRamp : State := rampPin (rampIn .held) 0 (.rampLandLimit 1)
def bound (s : State) (c : ChanId) (b : Binding) : State := s.modChannel c fun x => { x with cfg := { x.cfg with binding := b } }
def readyRamp : State :=
  let s := rampPin (rampPin (rampPin (rampIn .disabled) 0 (.rampStowLimit 1)) 1 (.rampLandLimit 1)) 2 (.rampLockedLimit 1)
  let s := rampPin (rampPin (rampPin (rampPin s 3 (.rampEncoder 1)) 4 (.rampLowerValve 1)) 5 (.rampRaiseValve 1)) 6 (.rampLock 1)
  bound (bound (bound s 0 (.rampValve 1)) 2 (.rampEncoder 1)) 3 (.rampSpeed 1)
def capturing (w : RampState) : State :=
  (rampIn w).modChannel 11 fun x =>
    ⟨{ x.cfg with binding := .rampSpeed 1 }, .capturing ⟨0, 0, 200, 1, false, false⟩⟩
def running : State := State.reset.modChannel 10 fun x => { x with run := .pwm ⟨0, 0, 9, 8, none, none, true⟩ }

def permitUsed : PermitEntry := ⟨true, .doorReopen 23, [.zone 7 2, .door 0 1, .ramp 1 1, .node 63 15 true]⟩
def guarded (s : State) (a : PermitAction) : State := s.modPermit 15 fun _ => { permitUsed with action := a }
def permitted : State := guarded .reset (.doorReopen 23)
def permittedDoor : State := guarded (doorIn .closed .latch) (.doorReopen 23)
def permittedZone : State := guarded (zoneIn .alarm) (.zoneClear 7)

def branchIn (w : BranchState) : State :=
  State.reset.modBranch 3 fun x => { x with cfg := { x.cfg with enable := true }, state := w }
def record (n : BitVec 2) : BurstRecord := ⟨n, .k1000, 0, 0, [⟨15, 1, .general, none, .value 7⟩]⟩
def inBurst (held : Bool) (p : Option BurstRecord) : State :=
  (fitted.modBranch 3 fun x =>
    { x with cfg := { x.cfg with enable := true }, state := .burst, burst := some (record 1), held := held, previous := p })

def aCall (tag : Byte) (cls : CallClass) : Call :=
  ⟨tag, cls, .bridge, some 1, none, none, none, 1, 0, 0, [⟨7, 1, .presenting, none⟩]⟩
def calling (c : Call) : State := (zoneIn .normal).modCalls fun x => { x with queue := [c] }
def crowded (cls : CallClass) : State :=
  (zoneIn .normal).modCalls fun x => { x with queue := (List.range 16).map fun n => aCall (BitVec.ofNat 8 (n + 1)) cls }
def presents (w : Phase) : State :=
  (calling (aCall 5 .crew)).modPresenting 7 fun _ =>
    some ⟨5, w, some 1, if w = .clip then some 1 else none, []⟩
def playing (w : PlayerState) (n : Nat) : State :=
  (State.reset.modPlayer fun _ => ⟨w, 7, 0, some 1⟩).modChime 7 fun x => { x with repetitions := n }

def wanted : State := routed.modSlot 0 fun x => { x with entry := { x.entry with replyWanted := true } }
def voided : State := State.reset.modSlot 63 fun x => { x with void := some 9 }
def counter (b : Binding) (k : CountRun) (s : State) : State :=
  s.modChannel 11 fun x => ⟨{ x.cfg with binding := b }, .counting k⟩
def windowAt (w : ZoneState) (k : CountRun) : State :=
  (counter (.zoneDetector 7) k (input (.detector 7))).modZone 7 fun x =>
    { x with state := w, window := if w = .preAlarm then some 1 else none }
def buttonAt (w : DoorState) (t : Timer) (used : Nat) : State :=
  (input (.doorHoldButton 23)).modDoor 23 fun x => { x with state := w, timer := t, holdsUsed := used }
def twoEdges : State :=
  (windowAt .preAlarm ⟨0, true, 2, true, 0⟩).modPin 31 (fun x => { x with raw := true, filtered := true }) |>.modZone 7 fun x =>
    { x with cfg := { x.cfg with threshold := 2 } }
def flashing : State := State.reset.modChannel 10 fun _ => ⟨⟨.flash2, .milli, 9, 8⟩, .pwm ⟨0, 0, 9, 8, none, none, true⟩⟩
/-- A ramp in service that is RAISING, one edge before its slow point, its speed channel capturing. -/
def slowing : State :=
  let s := readyRamp.modRamp 1 fun x => { x with state := .raising, startDir := .raise, speed := .normal, timer := none }
  let s := (each 4).foldl (fun s p => s.modPin ⟨p.val, by omega⟩ fun x => { x with filtered := false }) s
  let s := s.modAccount fun a => { a with granted := [⟨33, .motion, 16, 0, false⟩], nextAge := 1 }
  let s := s.modChannel 0 fun x => { x with run := .pwm ⟨0, 0, 9, 8, none, none, true⟩ }
  let s := s.modChannel 2 fun x => { x with run := .counting ⟨1, false, 0, true, 0⟩ }
  s.modChannel 3 fun x => { x with run := .capturing ⟨200, 0, 200, 1, true, false⟩ }
def speeding (w : CaptureRun) : State :=
  ((input (.rampEncoder 1)).modRamp 1 fun x => { x with state := .raising }).modChannel 11 fun x =>
    ⟨{ x.cfg with binding := .rampSpeed 1 }, .capturing w⟩
def fireWaits : State := State.reset.modAccount fun a => { a with pending := [⟨0, .fire, 41, 0, false⟩], nextAge := 1 }
def sheds : State :=
  (((outputAt .on).modPin 31 fun x => { x with cfg := { x.cfg with sheddable := true } }).modPin 0 fun x =>
    { x with cfg := { x.cfg with function := .zoneBeacon 7 } }).modAccount fun _ =>
      ⟨[⟨31, .service, 1, 0, false⟩], [⟨0, .fire, 40, 1, false⟩], 2⟩
def driving : State :=
  (valves.modRamp 1 fun x => { x with state := .raising }).modAccount fun a =>
    { a with granted := [⟨33, .motion, 16, 0, false⟩], nextAge := 1 }
def watched (a : Bool) : State :=
  ((input .generalIn).modRamp 1 fun x => { x with state := .lowering }).modPermit 15 fun _ =>
    ⟨true, .rampLower 1, [.pin 31 a]⟩
def ending : State := (playing .on 1).setChime (some ⟨5, .crew, [7]⟩)
def chimeWaits : State :=
  (((presents .chimeWait).modCall 5 fun c => { c with pattern := some 7 }).modPlayer fun _ => ⟨.on, 7, 0, some 1⟩).setChime
    (some ⟨6, .safety, [0]⟩)
def localBurst : State :=
  (fitted.modBranch 3 fun x => { x with cfg := { x.cfg with enable := true }, state := .idle }).modTrunk fun u =>
    { u with mode := .localMode, silence := none, localCycle := some 1 }

def fittedZone : State := fitted.modZone 7 fun x => { x with state := .normal }
def high (s : State) : State := s.modPin 31 fun x => { x with raw := true, filtered := true }
def smokeAt : State := (input (.detector 7)).modZone 7 fun x => { x with state := .preAlarm, window := some 1 }
def burning (s : State) : State :=
  s.modZone 0 fun x => { x with cfg := { x.cfg with configured := true, autoClose := true }, state := .alarm }
def limitOf (s : State) (f : PinFunction) : State := s.modPin 31 fun x => { x with cfg := { x.cfg with function := f } }
def idleDoor : State := readyDoor.modDoor 23 fun x => { x with cfg := .reset }
def swiftReady : State := readyDoor.modDoor 23 fun x => { x with cfg := { x.cfg with warning := 0 } }
def doorLess : State := (rampPin (doorIn .disabled .latch) 0 (.doorRelease 23)).modDoor 23 fun x => { x with reason := .pins }
def idleRamp : State := readyRamp.modRamp 1 fun x => { x with cfg := .reset }
def stowedRamp : State := readyRamp.modRamp 1 fun x => { x with state := .stowed }
def rampLess : State := (rampPin readyRamp 6 .unused).modRamp 1 fun x => { x with reason := .pins }
def answered : State := State.reset.modUnit fun u => { u with reply := some ⟨5, 0, .done, []⟩ }
/-- A COMMAND segment of junction 1 with no body. -/
def ownSegment : Segment := ⟨0x0800, []⟩
/-- A reply segment of junction 3 that fills a frame. -/
def filler (n : Nat) : Segment := ⟨BitVec.ofNat 16 (0x1C00 + n), List.replicate n 0⟩

/-- A frame of another kind than CYCLIC. -/
def plainFrame : List Word := State.withCheck [0x2000, 7]
/-- A frame whose one segment is a reply of junction 1. -/
def replyFrame : List Word := State.withCheck [0x1001, 7, 0x0C01, 0]
def askFrame : List Word := itemFrame 1 7 0 9

theorem routeLawRouted : (routed.withPending [.silenceTimerExpiry]).routeLaw := by
  have h : ∀ i, ((routed.withPending [.silenceTimerExpiry]).slot i).entry.names.isSome = true →
    i = 0 := by decide +kernel
  exact ⟨by decide +kernel, fun i j n hi hj => (h i (by rw [hi]; rfl)).trans (h j (by rw [hj]; rfl)).symm⟩

theorem callLawPresents : ((presents .clip).withPending [.silenceTimerExpiry]).callLaw := by
  refine ⟨by unfold queueLaw; decide, by unfold presentingLaw itemStands; decide +kernel,
    by unfold alarmCallLaw; decide +kernel, ?_⟩
  unfold callForm
  decide +kernel

/-! ### The check of form (WellFormed.lean) -/

theorem test_refused_payload : (Instr.blockWrite 0 (List.replicate 33 0)).wellFormed = false := by decide
theorem test_refused_lock_payload : (Instr.configLock 0 (List.replicate 33 0)).wellFormed = false := by decide
theorem test_refused_fields : (Instr.rampWrite 0 1 (List.replicate 31 0)).wellFormed = false := by decide
theorem test_refused_opcode : (Instr.unknownRequest 12 0 []).wellFormed = false := by decide
theorem test_formed_longest : (Instr.unknownRequest 13 0 (List.replicate 32 0)).wellFormed = true
    ∧ (Instr.zoneWrite 0 8 (List.replicate 30 0)).wellFormed = true := by decide

/-! ### The words on the lines -/

/-- The check value of this CRC for the digits 1 to 9 (R2). -/
theorem test_crc_of_digits :
    crc16 ([0x31, 0x32, 0x33, 0x34, 0x35, 0x36, 0x37, 0x38, 0x39] : List (BitVec 8)) = 0x29B1 := by decide +kernel
theorem test_frame_good : goodFrame plainFrame = true ∧ goodFrame [0x2000, 7, 8] = false := by decide +kernel
theorem test_header_word : (record 2).header = 0x928000 := by decide
theorem test_value_word : (CommandWord.value 0xABCD).word = 0x10ABCD := by decide
theorem test_play_word : (CommandWord.paPlay 0xFE 3).word = 0x50FE03 := by decide
theorem test_sensor_reply : rightReply .sensor 2 0xF00155 = some 0x155
    ∧ rightReply .sensor 1 0xF00155 = none := by decide
theorem test_status_word : overflowed.statusRecord = 0x0810 ∧ (zoneIn .alarm).statusRecord = 1 := by decide

/-! ### One step -/

/-- The state that a command at the front of the queue leads to. -/
def after (c : Instr) (s : State) : State :=
  match step (s.withPending [c]) with
  | .next t => t
  | _ => s

def reply (c : Instr) (s : State) : Option (Result × List Word) := (after c s).unit.reply.map fun r => (r.result, r.payload)

theorem test_hard_reset : (after (.hardReset 7) overflowed).trunk.address = 7
    ∧ (after (.hardReset 31) overflowed).trunk.silence = none := by decide
theorem test_frame_item : ((after (.frameArrival askFrame) .reset).slot 0).void = some 9 := by decide +kernel
theorem test_frame_request :
    (after (.frameArrival (requestFrame 1 7 ⟨12, 5, [31, 1]⟩)) (outputAt .off)).account.granted =
      [⟨31, .service, 0, 0, false⟩] := by decide +kernel
theorem test_unknown : reply (.unknownRequest 13 0 []) .reset = some (.unknownRequest, []) := by decide
theorem test_junction_range : reply (.junctionWrite 0 0 [200, 20, 19, 40]) .reset = some (.refusedRange, [3]) := by decide
theorem test_table_index : reply (.tableRead 0 8 25) .reset = some (.refusedRange, [2]) := by decide
theorem test_table_read : reply (.tableRead 0 6 7) .reset = some (.done, [1000, 50, 200, 200, 1]) := by decide
theorem test_state_read : reply (.stateRead 0 6 0) loaded = some (.done, [40, 1, 1, 0, 0x0301]) := by decide
theorem test_lock : (after (.configLock 0 []) .reset).unit.lock = true := by decide
theorem test_restart : (after (.restart .own 0 []) inLocal).trunk.localCycle = some 1 := by decide +kernel
theorem test_alarm : ((after (.setAlarm .own 0 8) (zoneIn .normal)).zone 7).state = .alarm
    ∧ ((after (.setAlarm .own 0 8) (zoneIn .normal)).calls.queue.map Call.tag) = [247] := by decide +kernel
theorem test_clear : ((after (.clear .broadcast 0 8) (zoneIn .evacuate)).zone 7).state = .normal := by decide +kernel
theorem test_close : ((after (.doorClose 0 24) (doorIn .opened .latch)).door 23).timer = some 10000000 := by decide +kernel
theorem test_reopen : reply (.doorReopen 0 24) permittedDoor = some (.refusedPermit, [15]) := by decide +kernel
theorem test_door_shuts : ((after (.rawInputChange 31 true) limitAt).door 23).state = .closed := by decide +kernel
theorem test_ramp_stop : ((after (.rampStop 0 2) (rampIn .raising)).ramp 1).reason = .stopped := by decide +kernel
theorem test_ramp_toggle :
    ((after (.frameArrival (itemFrame 1 7 65 0x8002)) (rampIn .held)).ramp 1).lastToggle = true := by decide +kernel
theorem test_branch_enable : ((after (.branchEnable 0 3) (branchIn .contended)).branch 3).state = .idle := by decide
theorem test_burst : ((after (.burstEnd 3 .silent) (inBurst false (some (record 0)))).position 63).missRun = 1 := by
  decide +kernel
theorem test_call : (after (.callPost 0 [9, 0, 128, 5, 0x8000, 0x8000, 0x8000, 1, 0]) (zoneIn .normal)).calls.queue.map Call.tag
    = [9] := by decide +kernel
theorem test_cancel : (after (.callCancel .own 0 5) (calling (aCall 5 .crew))).calls.queue = [] := by decide +kernel
theorem test_output : reply (.outputSetOn 0 31) .reset = some (.refusedConflict, [1]) := by decide
theorem test_silence : (after .silenceTimerExpiry .reset).unit.events = [⟨.trunkLost, 0, 0, 0⟩] := by decide +kernel
theorem test_local_cycle : ((after .localCycleTimerExpiry inLocal).trunk.cycle) = 1 := by decide +kernel
theorem test_grant : (after .loadGrant (waits 40)).account.granted.length = 1
    ∧ (after .loadGrant (waits 41)).account.granted.length = 0 := by decide +kernel
theorem test_stall : ((after (.stallCountReached 11) (capturing .raising)).ramp 1).reason = .stall := by decide +kernel
theorem test_pwm : ((after (.pwmDutyEnd 5) running).channel 10).run = .pwm ⟨8, 0, 9, 8, none, none, false⟩ := by decide
theorem test_chime : (after .chimeOffExpiry (playing .off 1)).player.timer = some 200000 := by decide +kernel
theorem test_idle : (after .loadGrant .reset).pending = []
    ∧ (match step .reset with
      | .next t => t.trunk.silence == some 199999
      | _ => false) = true := by decide +kernel

/-- A warning time of 0 is told to the Permit Table: the entry permits OPEN and CLOSING, and WARNING between them halts the
ramp (R139, R177). -/
def guardedSwift : State :=
  ((swift .opened .magnet).modRamp 1 fun x => { x with cfg := { x.cfg with enabled := true }, state := .lowering }).modPermit
    15 fun _ => ⟨true, .rampLower 1, [.door 23 18]⟩
theorem test_warning_is_told : ((after (.doorClose 0 24) guardedSwift).door 23).state = .closing
    ∧ ((after (.doorClose 0 24) guardedSwift).ramp 1).state = .held := by decide +kernel
/-- A write of the zone and the fixed flag judges the node-fault flag of the new zone (R61, R124). -/
theorem test_fixed_rejudged :
    ((after (.positionWrite 0 63 (PositionCfg.words ⟨true, false, .sensor, some 7, .safe, 0⟩))
      ((fittedZone.modPosition 63 fun x => { x with cfg := { x.cfg with fixed := true } }).modZone 7 fun x =>
        { x with fault := true })).zone 7).fault = false := by decide +kernel
theorem test_restart_swift :
    ((after (.restart .own 0 []) (burning (swift .opened .magnet))).door 23).state = .closing
    ∧ ((after (.restart .own 0 []) (burning (swift .opened .magnet))).unit.events.filter fun e => e.kind == .doorState).length
      = 1 := by decide +kernel

/-- The door-warning call of a close comes before the notice to the Permit Table (10.5): at a queue full of SAFETY calls it is
dropped, and then the ramp halts. -/
def guardedCrowd : State :=
  ((((crowded .safety).modDoor 23 fun x =>
    { x with cfg := { x.cfg with zone := 7, enabled := true }, state := .opened }).modRamp 1 fun x =>
      { x with cfg := { x.cfg with enabled := true }, state := .lowering })).modPermit 15 fun _ =>
        ⟨true, .rampLower 1, [.door 23 18]⟩

theorem test_call_before_notice : (after (.doorClose 0 24) guardedCrowd).unit.events.map Event.kind =
    [.doorState, .callDropped, .rampState, .permitDropped] := by decide +kernel

/-- The edge at the slow point sets the slow mark and buffers the slow duty, with the speed channel capturing. -/
theorem test_slow_point :
    let t := after (.rawInputChange 3 true) slowing
    (t.ramp 1).slowMark = true ∧ (t.ramp 1).state = .raising
      ∧ (t.channel 0).run = .pwm ⟨0, 0, 9, 8, none, some (RampCfg.reset.valvePeriod * RampCfg.reset.slowDuty / 100), true⟩ := by
  decide +kernel

/-- Ramp 1 is LOWERING and ramp 2, on its stow limit, waits for the units that ramp 1 holds; both belong to zone 8. -/
def rampsQueued : State :=
  let s := pinned (.rampStowLimit 1)
  let s := s.modUnit fun u => { u with junction := { u.junction with loadBudget := 40 } }
  let s := s.modAccount fun a =>
    { a with granted := [⟨32, .motion, 40, 0, false⟩], pending := [⟨33, .motion, 40, 1, false⟩], nextAge := 2 }
  let s := s.modRamp 0 fun x => { x with cfg := { x.cfg with enabled := true, zone := 7 }, state := .lowering, grace := some 1 }
  let s := s.modRamp 1 fun x => { x with cfg := { x.cfg with enabled := true, zone := 7 }, state := .awaitingLoad, startDir := .raise, grace := some 1 }
  s.modZone 7 fun _ => ⟨zoneRecord, .normal, none, false⟩

/-- The ramps of a zone in alarm are halted together: the second is not granted what the first frees. -/
theorem test_ramps_halted_together : (after (.setAlarm .own 0 8) rampsQueued).unit.events.map (fun e => (e.kind, e.detail)) =
    [(.zoneState, 0x0301), (.rampState, 0x0803), (.rampState, 0x0803)] := by decide +kernel

theorem test_trunk_halts_together : (after .silenceTimerExpiry rampsQueued).unit.events.map (fun e => (e.kind, e.detail)) =
    [(.trunkLost, 0), (.rampState, 0x0805), (.rampState, 0x0805)] := by decide +kernel

/-- A burst of one node of zone 8 in a class, judged against one like it, while the zone presents a call's clip. -/
def nodeRecord (n : BitVec 2) (c : NodeClass) : BurstRecord := ⟨n, .k1000, 0, 0, [⟨15, 1, c, some 7, .poll⟩]⟩
def nodeBurst (c : NodeClass) (miss : Nat) (held : Bool) : State :=
  let s := (zoneIn .normal).modCalls fun x => { x with queue := [aCall 5 .crew] }
  let s := s.modPresenting 7 fun _ => some ⟨5, .clip, none, some 1, [63]⟩
  let s := s.modPosition 63 fun x =>
    { x with cfg := { x.cfg with enabled := !held, fixed := true, cls := c, zone := some 7 }, presence := .present, missRun := miss }
  s.modBranch 3 fun x =>
    { x with state := .burst, burst := some (nodeRecord 1 c), previous := some (nodeRecord 0 c), held := held, checkRun := 8 }

/-- The good return of that burst with one right reply. -/
def nodeReturn (c : NodeClass) (contents : Nat) : List ChainWord :=
  let w : ChainWord := BitVec.ofNat 24 (0x800000 + c.ctorIdx * 2 ^ 21 + contents)
  [w, (crc16 [w]).setWidth 24]

theorem test_sensor_alarms :
    ((after (.burstEnd 3 (.words (nodeReturn .sensor 0x100))) (nodeBurst .sensor 0 false)).zone 7).state = .alarm := by
  decide +kernel
theorem test_played_clip :
    ((after (.burstEnd 3 (.words (nodeReturn .pa 0))) (nodeBurst .pa 0 false)).presenting 7).map Presentation.phase =
      some .hold := by decide +kernel
theorem test_node_lost :
    ((after (.burstEnd 3 .silent) (nodeBurst .sign 2 false)).zone 7).fault = true := by decide +kernel
theorem test_contended_sensors :
    ((after (.returnLineContention 3) (nodeBurst .sensor 0 false)).zone 7).fault = true := by decide +kernel

/-- A zone in ALARM that presents its internal alarm call. -/
def alarmStands : State :=
  ((zoneIn .alarm).modCalls fun x =>
    { x with queue := [⟨alarmTag 7, .fire, .internal, some 1, none, none, some 0, 0, 0, 0, [⟨7, 0, .presenting, none⟩]⟩] }).modPresenting 7
      fun _ => some ⟨alarmTag 7, .hold, some 1, none, []⟩

/-- An OPEN door and a LOWERING ramp of zone 8, which closes its doors. -/
def alarmReady : State :=
  ((rampsQueued.modDoor 23 fun x => { x with cfg := { x.cfg with enabled := true, zone := 7, warning := 100 }, state := .opened }).modZone 7
    fun _ => ⟨{ zoneRecord with configured := true, autoClose := true }, .normal, none, false⟩)

/-! ### The premises of the statements -/

/-- The premises of StepTakesTheQueue can be met. -/
theorem test_premises_StepTakesTheQueue :
    ∃ (s : State), s.pending = [] :=
  ⟨.reset, by decide⟩

/-- The premises of FramesPassedOn can be met. -/
theorem test_premises_FramesPassedOn :
    (∃ (ws : List Word) (s : State), (s.active = false ∨ goodFrame ws = false))
    ∧ (∃ (ws : List Word) (s : State), s.active = true ∧ goodFrame ws = true ∧ (ws.headD 0).extractLsb' 12 4 ≠ 1) :=
  ⟨⟨[0], .reset, by decide⟩,
   ⟨plainFrame, .reset, by decide⟩⟩

/-- The premises of CyclicFrames can be met. -/
theorem test_premises_CyclicFrames :
    (∃ (ws : List Word) (s : State), s.active = true ∧ goodFrame ws = true ∧ (ws.headD 0).extractLsb' 12 4 = 1)
    ∧ (∃ (ws : List Word) (s : State), s.active = true ∧ goodFrame ws = true ∧ (ws.headD 0).extractLsb' 12 4 = 1
        ∧ (∀ xs, walk ((ws.headD 0).extractLsb' 0 5).toNat (ws.drop 2).dropLast = some xs →
        ∀ x ∈ xs, x.isReply = true ∨ (x.address ≠ s.trunk.address ∧ x.address ≠ 31)))
    ∧ (∃ (q : Request) (s : State), s.active = true ∧ q.payload.length ≤ 32 ∧ s.replyFits)
    ∧ (∃ (s : State), s.eventLaw)
    ∧ (∃ (i : SlotId) (v : Word) (s : State), (s.slot i).void = some v)
    ∧ (∃ (i : SlotId) (n : PosId) (s : State), (s.slot i).void = none ∧ (s.slot i).entry.names = some n
        ∧ (s.slot i).entry.replyWanted = true)
    ∧ (∃ (i : SlotId) (s : State), (s.slot i).void = none
        ∧ ((s.slot i).entry.names = none ∨ (s.slot i).entry.replyWanted = false))
    ∧ (∃ (k : Parts), k.items = true)
    ∧ (∃ (k : Parts), k.items = false)
    ∧ (∃ (body : List Word) (s : State), s.active = true ∧ body.length ≤ 1019 ∧ s.replyFits)
    ∧ (∃ (cycle : Word) (pre post : List Segment) (x : Segment) (k : Parts) (s : State), s.active = true
        ∧ (∀ y ∈ pre ++ x :: post, y.sound = true) ∧ (pre ++ x :: post).length ≤ 31
        ∧ (segmentFrame cycle (pre ++ x :: post)).length ≤ 1023
        ∧ (∀ y ∈ pre, y.isReply = true ∨ (y.address ≠ s.trunk.address ∧ y.address ≠ 31)) ∧ x.isReply = false
        ∧ x.address = s.trunk.address ∧ (s.atReply cycle (readCommand x.body).isNone).fittingParts
        ((segmentFrame cycle (pre ++ x :: post)).length + 1 - x.words.length) = some k)
    ∧ (∃ (cycle : Word) (pre post : List Segment) (x : Segment) (s : State), s.active = true
        ∧ (∀ y ∈ pre ++ x :: post, y.sound = true) ∧ (pre ++ x :: post).length ≤ 31
        ∧ (segmentFrame cycle (pre ++ x :: post)).length ≤ 1023
        ∧ (∀ y ∈ pre, y.isReply = true ∨ (y.address ≠ s.trunk.address ∧ y.address ≠ 31)) ∧ x.isReply = false
        ∧ x.address = s.trunk.address ∧ (∀ y ∈ post, y.isReply = true ∨ y.address ≠ 31)
        ∧ (s.atReply cycle (readCommand x.body).isNone).fittingParts
        ((segmentFrame cycle (pre ++ x :: post)).length + 1 - x.words.length) = none)
    ∧ (∃ (cycle : Word) (pre post : List Segment) (x : Segment) (k : Parts) (s : State), s.active = true
        ∧ (∀ y ∈ pre ++ x :: post, y.sound = true) ∧ (pre ++ x :: post).length ≤ 31
        ∧ (segmentFrame cycle (pre ++ x :: post)).length ≤ 1023
        ∧ (∀ y ∈ pre, y.isReply = true ∨ (y.address ≠ s.trunk.address ∧ y.address ≠ 31)) ∧ x.isReply = false
        ∧ x.address = s.trunk.address ∧ (∀ y ∈ post, y.isReply = true ∨ y.address ≠ 31)
        ∧ (s.atReply cycle (readCommand x.body).isNone).fittingParts
        ((segmentFrame cycle (pre ++ x :: post)).length + 1 - x.words.length) = some k ∧ k.reply = false) :=
  ⟨⟨askFrame, .reset, by decide +kernel⟩,
   ⟨replyFrame, .reset, by decide +kernel⟩,
   ⟨⟨5, 0, List.replicate 32 0⟩, .reset, by unfold replyFits; decide⟩,
   ⟨overflowed, by unfold eventLaw; decide⟩,
   ⟨63, 9, voided, by decide⟩,
   ⟨0, 15, wanted, by decide⟩,
   ⟨63, .reset, by decide⟩,
   ⟨⟨false, true, false⟩, by decide⟩,
   ⟨⟨true, false, true⟩, by decide⟩,
   ⟨List.replicate 1019 0, .reset, by unfold replyFits; decide +kernel⟩,
   ⟨7, [⟨0x1400, []⟩], [⟨0xF800, []⟩], ownSegment, ⟨true, true, true⟩, .reset, by decide +kernel⟩,
   ⟨7, [], [filler 1018], ownSegment, answered, by decide +kernel⟩,
   ⟨7, [], [filler 1011], ownSegment, ⟨false, false, false⟩, answered, by decide +kernel⟩⟩

/-- The premises of OwnRequestsAreAnswered can be met. -/
theorem test_premises_OwnRequestsAreAnswered :
    (∃ (c : Instr) (op tag : Byte) (s : State), c.ownRequest = some (op, tag) ∧ s.active = true)
    ∧ (∃ (c : Instr) (s : State), c.broadcasts = true ∧ s.active = true)
    ∧ (∃ (c : Instr) (s : State), (c.ownRequest.isSome = true ∨ c.broadcasts = true) ∧ s.active = false)
    ∧ (∃ (s : State), s.active = true)
    ∧ (∃ (body : List Word) (s : State), s.active = true ∧ body.length ≤ 1019 ∧ s.replyFits ∧ readCommand body = none)
    ∧ (∃ (x : Segment) (s : State), s.active = true ∧ x.sound = true ∧ x.isReply = false ∧ x.address = 31
        ∧ x.body.length ≤ 1019) :=
  ⟨⟨.callCancel .own 3 9, 11, 3, .reset, by decide⟩,
   ⟨.restart .broadcast 3 [], .reset, by decide⟩,
   ⟨.doorClose 0 1, passive, by decide⟩,
   ⟨.reset, by decide⟩,
   ⟨[], .reset, by unfold replyFits; decide⟩,
   ⟨⟨0xF800, []⟩, .reset, by decide⟩⟩

/-- The premises of RefusedRequestsChangeNothing can be met. -/
theorem test_premises_RefusedRequestsChangeNothing :
    ∃ (c : Instr) (op tag : Byte) (s : State), c.ownRequest = some (op, tag) ∧ s.active = true :=
  ⟨.rampStop 0 7, 8, 0, .reset, by decide⟩

/-- The premises of JunctionWrites can be met. -/
theorem test_premises_JunctionWrites :
    (∃ (x : JunctionCfg) (s : State), s.active = true ∧ x.inRange = true ∧ unitsOf s.account.granted ≤ x.loadBudget
        ∧ (s.unit.lock = true → x.loadBudget = s.unit.junction.loadBudget))
    ∧ (∃ (x : JunctionCfg) (s : State), s.active = true ∧ x.inRange = true ∧ s.unit.lock = true
        ∧ x.loadBudget ≠ s.unit.junction.loadBudget)
    ∧ (∃ (x : JunctionCfg) (s : State), s.active = true ∧ x.inRange = true
        ∧ (s.unit.lock = true → x.loadBudget = s.unit.junction.loadBudget)
        ∧ x.loadBudget < unitsOf s.account.granted) :=
  ⟨⟨⟨2000, 10, 500, 40⟩, locked, by decide⟩,
   ⟨⟨40, 200, 20, 41⟩, locked, by decide⟩,
   ⟨⟨40, 10, 20, 0⟩, loaded, by decide⟩⟩

/-- The premises of BranchAndPositionWrites can be met. -/
theorem test_premises_BranchAndPositionWrites :
    (∃ (x : BranchCfg) (s : State), s.active = true ∧ s.unit.lock = false ∧ x.inRange = true)
    ∧ (∃ (x : PositionCfg) (s : State), s.active = true ∧ s.unit.lock = false ∧ x.inRange = true)
    ∧ (∃ (n : PosId) (x : PositionCfg) (z : ZoneId) (s : State), s.active = true ∧ s.unit.lock = false
        ∧ x.inRange = true ∧ (s.position n).cfg.enabled = true ∧ x.enabled = true ∧ x.fixed ≠ (s.position n).cfg.fixed
        ∧ x.zone = some z ∧ (s.zone z).state ≠ .unused) :=
  ⟨⟨⟨true, .k1000, 15, 15⟩, .reset, by decide⟩,
   ⟨⟨true, true, .sensor, some 7, .safe, 0⟩, .reset, by decide⟩,
   ⟨63, ⟨true, true, .sensor, some 7, .safe, 0⟩, 7, fittedZone, by decide⟩⟩

/-- The premises of RouteWrites can be met. -/
theorem test_premises_RouteWrites :
    (∃ (i : SlotId) (b : BranchId) (p : PlaceId) (k : Nat) (s : State), s.active = true
        ∧ s.logical (posIndex b p) = some k ∧ (s.position (posIndex b p)).cfg.cls = .general
        ∧ (∀ j, j ≠ i → (s.slot j).entry.names ≠ some (posIndex b p)))
    ∧ (∃ (k : Word) (s : State), s.active = true ∧ 1 ≤ k.toNat ∧ k.toNat ≤ 16)
    ∧ (∃ (b : BranchId) (k : Word) (s : State), s.active = true ∧ 1 ≤ k.toNat ∧ k.toNat ≤ 16
        ∧ (∀ p, s.logical (posIndex b p) ≠ some k.toNat))
    ∧ (∃ (i j : SlotId) (b : BranchId) (p : PlaceId) (k : Nat) (s : State), s.active = true
        ∧ s.logical (posIndex b p) = some k
        ∧ ((s.position (posIndex b p)).cfg.cls ≠ .general ∨ j ≠ i ∧ (s.slot j).entry.names = some (posIndex b p))) :=
  ⟨⟨63, 3, 15, 1, fitted, by decide⟩,
   ⟨16, .reset, by decide⟩,
   ⟨3, 2, fitted, by decide⟩,
   ⟨63, 0, 0, 15, 1, routed, by decide⟩⟩

/-- The premises of PinWrites can be met. -/
theorem test_premises_PinWrites :
    (∃ (p : PinId) (x : PinCfg) (s : State), s.active = true ∧ s.unit.lock = false ∧ x.inRange = true
        ∧ (x.function = .unused ∨ x.function = .generalIn ∨ x.function = .generalOut ∨
        (∀ q, q ≠ p → (s.pin q).cfg.function ≠ x.function))
            ∧ (x.function ≠ (s.pin p).cfg.function ∨ x.units = (s.pin p).cfg.units
                ∨ s.account.find (pinClaimant p) = none))
    ∧ (∃ (p q : PinId) (x : PinCfg) (s : State), s.active = true ∧ s.unit.lock = false ∧ x.inRange = true ∧ q ≠ p
        ∧ (s.pin q).cfg.function = x.function ∧ x.function ≠ .unused ∧ x.function ≠ .generalIn
        ∧ x.function ≠ .generalOut)
    ∧ (∃ (p : PinId) (x : PinCfg) (s : State), s.active = true ∧ s.unit.lock = false ∧ x.inRange = true
        ∧ (x.function = .unused ∨ x.function = .generalIn ∨ x.function = .generalOut ∨
        (∀ q, q ≠ p → (s.pin q).cfg.function ≠ x.function)) ∧ x.function = (s.pin p).cfg.function
            ∧ x.units ≠ (s.pin p).cfg.units ∧ (s.account.find (pinClaimant p)).isSome = true)
    ∧ (∃ (p : PinId) (x : PinCfg) (s : State), s.active = true ∧ s.unit.lock = false ∧ x.inRange = true
        ∧ (x.function = .unused ∨ x.function = .generalIn ∨ x.function = .generalOut ∨
        (∀ q, q ≠ p → (s.pin q).cfg.function ≠ x.function)) ∧ x.function = (s.pin p).cfg.function
            ∧ (x.units = (s.pin p).cfg.units ∨ s.account.find (pinClaimant p) = none)
            ∧ (x.polarity = (s.pin p).cfg.polarity ∨ x.function.isInput = false))
    ∧ (∃ (p : PinId) (x : PinCfg) (s : State), s.active = true ∧ s.unit.lock = false ∧ x.inRange = true
        ∧ (x.function = .unused ∨ x.function = .generalIn ∨ x.function = .generalOut ∨
        (∀ q, q ≠ p → (s.pin q).cfg.function ≠ x.function)) ∧ x.function = (s.pin p).cfg.function
            ∧ x.function.isInput = true ∧ x.polarity ≠ (s.pin p).cfg.polarity
            ∧ (x.units = (s.pin p).cfg.units ∨ s.account.find (pinClaimant p) = none))
    ∧ (∃ (p : PinId) (x : PinCfg) (z : ZoneId) (s : State), s.active = true ∧ s.unit.lock = false ∧ x.inRange = true
        ∧ (x.function = .unused ∨ x.function = .generalIn ∨ x.function = .generalOut ∨
        (∀ q, q ≠ p → (s.pin q).cfg.function ≠ x.function)) ∧ x.function = (s.pin p).cfg.function
            ∧ x.function.isInput = true ∧ x.polarity ≠ (s.pin p).cfg.polarity
            ∧ (x.units = (s.pin p).cfg.units ∨ s.account.find (pinClaimant p) = none)
            ∧ x.polarity.apply (s.pin p).filtered = true ∧ x.function = .callPoint z
            ∧ ((s.zone z).state = .normal ∨ (s.zone z).state = .preAlarm))
    ∧ (∃ (p : PinId) (x : PinCfg) (d : DoorId) (s : State), s.active = true ∧ s.unit.lock = false ∧ x.inRange = true
        ∧ (x.function = .unused ∨ x.function = .generalIn ∨ x.function = .generalOut ∨
        (∀ q, q ≠ p → (s.pin q).cfg.function ≠ x.function)) ∧ x.function = (s.pin p).cfg.function
            ∧ x.function.isInput = true ∧ x.polarity ≠ (s.pin p).cfg.polarity
            ∧ (x.units = (s.pin p).cfg.units ∨ s.account.find (pinClaimant p) = none)
            ∧ x.polarity.apply (s.pin p).filtered = true ∧ s.pinOf (.doorClosedLimit d) = some p
            ∧ (s.door d).state = .closing ∧ s.inputActive (.doorOpenLimit d) = false)
    ∧ (∃ (p : PinId) (x : PinCfg) (s : State), s.active = true ∧ s.unit.lock = false ∧ x.inRange = true
        ∧ (x.function = .unused ∨ x.function = .generalIn ∨ x.function = .generalOut ∨
        (∀ q, q ≠ p → (s.pin q).cfg.function ≠ x.function)) ∧ x.function ≠ (s.pin p).cfg.function
            ∧ (x.function = .unused ∨ x.function = .generalIn ∨ x.function = .generalOut))
    ∧ (∃ (p : PinId) (x : PinCfg) (d : DoorId) (s : State), s.active = true ∧ s.unit.lock = false ∧ x.inRange = true
        ∧ (x.function = .unused ∨ x.function = .generalIn ∨ x.function = .generalOut ∨
        (∀ q, q ≠ p → (s.pin q).cfg.function ≠ x.function)) ∧ x.function ≠ (s.pin p).cfg.function
            ∧ (x.function.door? = some d ∨ (s.pin p).cfg.function.door? = some d) ∧ (s.door d).state ≠ .disabled
            ∧ (s.pinWritten p x).doorReady d = false)
    ∧ (∃ (p : PinId) (x : PinCfg) (d : DoorId) (s : State), s.active = true ∧ s.unit.lock = false ∧ x.inRange = true
        ∧ (x.function = .unused ∨ x.function = .generalIn ∨ x.function = .generalOut ∨
        (∀ q, q ≠ p → (s.pin q).cfg.function ≠ x.function)) ∧ x.function ≠ (s.pin p).cfg.function
            ∧ (x.function.door? = some d ∨ (s.pin p).cfg.function.door? = some d) ∧ (s.door d).state = .disabled
            ∧ (s.door d).cfg.enabled = true ∧ (s.door d).reason = .pins ∧ s.doorReady d = false
            ∧ (s.pinWritten p x).doorReady d = true)
    ∧ (∃ (p : PinId) (x : PinCfg) (r : RampId) (s : State), s.active = true ∧ s.unit.lock = false ∧ x.inRange = true
        ∧ (x.function = .unused ∨ x.function = .generalIn ∨ x.function = .generalOut ∨
        (∀ q, q ≠ p → (s.pin q).cfg.function ≠ x.function)) ∧ x.function ≠ (s.pin p).cfg.function
            ∧ (x.function.ramp? = some r ∨ (s.pin p).cfg.function.ramp? = some r) ∧ (s.ramp r).state ≠ .disabled
            ∧ (s.pinWritten p x).rampReady r = false)
    ∧ (∃ (p : PinId) (x : PinCfg) (r : RampId) (s : State), s.active = true ∧ s.unit.lock = false ∧ x.inRange = true
        ∧ (x.function = .unused ∨ x.function = .generalIn ∨ x.function = .generalOut ∨
        (∀ q, q ≠ p → (s.pin q).cfg.function ≠ x.function)) ∧ x.function ≠ (s.pin p).cfg.function
            ∧ (x.function.ramp? = some r ∨ (s.pin p).cfg.function.ramp? = some r) ∧ (s.ramp r).state = .disabled
            ∧ (s.ramp r).cfg.enabled = true ∧ (s.ramp r).cmdDisabled = false ∧ (s.ramp r).reason = .pins
            ∧ (s.pinWritten p x).rampReady r = true ∧ s.pinLaw)
    ∧ (∃ (p : PinId) (x : PinCfg) (z : ZoneId) (s : State), s.active = true ∧ s.unit.lock = false ∧ x.inRange = true
        ∧ (x.function = .unused ∨ x.function = .generalIn ∨ x.function = .generalOut ∨
        (∀ q, q ≠ p → (s.pin q).cfg.function ≠ x.function)) ∧ x.function ≠ (s.pin p).cfg.function
            ∧ x.function = .callPoint z ∧ x.polarity.apply (s.pin p).raw = true
            ∧ ((s.zone z).state = .normal ∨ (s.zone z).state = .preAlarm)) :=
  ⟨⟨31, ⟨.zoneBeacon 7, .activeLow, 0, 63, false, false⟩, .reset, by decide⟩,
   ⟨31, 0, ⟨.rampEncoder 1, .activeHigh, 0, 0, false, false⟩, pinned (.rampEncoder 1), by decide⟩,
   ⟨0, ⟨.generalOut, .activeHigh, 0, 63, true, false⟩, loaded, by decide⟩,
   ⟨31, ⟨.zoneBeacon 7, .activeLow, 0, 63, false, false⟩, input (.zoneBeacon 7), by decide⟩,
   ⟨31, ⟨.rampEncoder 1, .activeLow, 0, 0, false, false⟩, input (.rampEncoder 1), by decide⟩,
   ⟨31, ⟨.callPoint 7, .activeLow, 0, 0, false, false⟩, 7, pointAt, by decide⟩,
   ⟨31, ⟨.doorClosedLimit 23, .activeLow, 0, 0, false, false⟩, 23, limitAt, by decide⟩,
   ⟨31, ⟨.generalIn, .activeHigh, 0, 0, false, false⟩, pointAt, by decide⟩,
   ⟨31, .reset, 23, limitAt, by decide⟩,
   ⟨31, ⟨.doorClosedLimit 23, .activeHigh, 0, 0, false, false⟩, 23, doorLess, by decide⟩,
   ⟨6, .reset, 1, stowedRamp, by decide⟩,
   ⟨31, ⟨.rampLock 1, .activeHigh, 0, 0, false, false⟩, 1, rampLess, by unfold pinLaw; decide +kernel⟩,
   ⟨31, ⟨.callPoint 7, .activeLow, 0, 0, false, false⟩, 7, zoneIn .preAlarm, by decide⟩⟩

/-- The premises of ChannelWrites can be met. -/
theorem test_premises_ChannelWrites :
    (∃ (c : ChanId) (x : ChannelCfg) (s : State), s.active = true ∧ s.unit.lock = false ∧ x.inRange = true
        ∧ s.channelConflict c x = none)
    ∧ (∃ (c : ChanId) (x : ChannelCfg) (s : State), s.active = true ∧ s.unit.lock = false ∧ x.inRange = true
        ∧ s.channelConflict c x = none ∧ (s.channel c).cfg.binding = .none
        ∧ (x.binding = .chime ∨ x.binding = .flash1 ∨ x.binding = .flash2))
    ∧ (∃ (c : ChanId) (x : ChannelCfg) (s : State), s.active = true ∧ s.unit.lock = false ∧ x.inRange = true
        ∧ (x.binding.isPair = true ∧ c.val % 2 = 1
        ∨ c.val % 2 = 1 ∧ (s.channel (masterOf c)).cfg.binding.isPair = true
        ∨ x.binding.isPair = true ∧ c.val % 2 = 0 ∧ (s.channel (partnerOf c)).cfg.binding ≠ .none
        ∨ x.binding ≠ .none ∧ (∃ e, e ≠ c ∧ (s.channel e).cfg.binding = x.binding)))
    ∧ (∃ (c : ChanId) (x : ChannelCfg) (s : State), s.active = true ∧ s.unit.lock = false ∧ x.inRange = true
        ∧ x.clock = .milli ∧ (x.binding = .chime ∨ x.binding = .rampSpeed 0 ∨ x.binding = .rampSpeed 1)
        ∧ s.channelConflict c { x with clock := .micro } = none)
    ∧ (∃ (c : ChanId) (x : ChannelCfg) (s : State), s.active = true ∧ s.unit.lock = false ∧ x.inRange = true
        ∧ s.channelConflict c x = none ∧ (s.channel c).cfg.binding = .none ∧ (s.channel c).run = .stopped
        ∧ x.binding = .none)
    ∧ (∃ (c : ChanId) (x : ChannelCfg) (y : PwmRun) (s : State), s.active = true ∧ s.unit.lock = false
        ∧ x.inRange = true ∧ s.channelConflict c x = none ∧ (x.binding = .flash1 ∨ x.binding = .flash2)
        ∧ x.binding = (s.channel c).cfg.binding ∧ x.clock = (s.channel c).cfg.clock ∧ x ≠ (s.channel c).cfg
        ∧ (s.channel c).run = .pwm y) :=
  ⟨⟨11, ⟨.zoneDetector 7, .milli, 0, 0⟩, .reset, by decide⟩,
   ⟨10, ⟨.flash1, .milli, 65535, 65535⟩, .reset, by decide⟩,
   ⟨11, ⟨.chime, .micro, 0, 0⟩, .reset, by decide⟩,
   ⟨10, ⟨.rampSpeed 1, .milli, 0, 0⟩, .reset, by decide⟩,
   ⟨11, ⟨.none, .milli, 65535, 65535⟩, .reset, by decide⟩,
   ⟨10, ⟨.flash2, .milli, 65535, 0⟩, ⟨0, 0, 9, 8, none, none, true⟩, flashing, by decide⟩⟩

/-- The premises of ZoneAndChimeWrites can be met. -/
theorem test_premises_ZoneAndChimeWrites :
    (∃ (x : ChimeCfg) (s : State), s.active = true ∧ x.inRange = true)
    ∧ (∃ (z : ZoneId) (x : ZoneCfg) (s : State), s.active = true ∧ x.inRange = true
        ∧ (x.configured = true ∨ s.alarmed z = false) ∧ x ≠ (s.zone z).cfg)
    ∧ (∃ (z : ZoneId) (x : ZoneCfg) (s : State), s.active = true ∧ x.inRange = true ∧ x.configured = false
        ∧ s.alarmed z = true) :=
  ⟨⟨⟨5000, 99, 2000, 10, 15⟩, .reset, by decide⟩,
   ⟨7, zoneRecord, .reset, by decide⟩,
   ⟨7, .reset, zoneIn .evacuate, by decide⟩⟩

/-- The premises of DoorAndRampWrites can be met. -/
theorem test_premises_DoorAndRampWrites :
    (∃ (x : DoorCfg) (s : State), s.active = true ∧ x.inRange = true)
    ∧ (∃ (d : DoorId) (x : DoorCfg) (s : State), s.active = true ∧ x.inRange = true ∧ x.enabled = false
        ∧ (s.door d).cfg.enabled = true ∧ (s.door d).state ≠ .disabled)
    ∧ (∃ (d : DoorId) (x : DoorCfg) (s : State), s.active = true ∧ x.inRange = true
        ∧ x.enabled = (s.door d).cfg.enabled ∧ (x.enabled = true ∨ (s.door d).state = .disabled)
        ∧ x.zone = (s.door d).cfg.zone ∧ x.kind = (s.door d).cfg.kind ∧ ¬s.awaitsGrant d)
    ∧ (∃ (d : DoorId) (x : DoorCfg) (s : State), s.active = true ∧ x.inRange = true
        ∧ x.enabled = (s.door d).cfg.enabled ∧ (x.enabled = true ∨ (s.door d).state = .disabled)
        ∧ x.zone = (s.door d).cfg.zone ∧ x.kind = (s.door d).cfg.kind ∧ s.warningLaw)
    ∧ (∃ (d : DoorId) (x : DoorCfg) (s : State), s.active = true ∧ x.inRange = true ∧ x.enabled = true
        ∧ (s.door d).cfg.enabled = false ∧ (s.door d).state = .disabled ∧ (s.door d).reason = .record
        ∧ (s.pinOf (.doorClosedLimit d) = none ∨ x.kind = .magnet ∧ s.pinOf (.doorHoldback d) = none
        ∨ x.kind = .latch ∧ s.pinOf (.doorRelease d) = none))
    ∧ (∃ (d : DoorId) (x : DoorCfg) (s : State), s.active = true ∧ x.inRange = true ∧ x.enabled = true
        ∧ (s.door d).cfg.enabled = false ∧ (s.door d).state = .disabled ∧ (s.door d).reason = .record
        ∧ (s.pinOf (.doorClosedLimit d)).isSome = true ∧ (x.kind = .magnet ∧ (s.pinOf (.doorHoldback d)).isSome = true
        ∨ x.kind = .latch ∧ (s.pinOf (.doorRelease d)).isSome = true))
    ∧ (∃ (x : RampCfg) (s : State), s.active = true ∧ x.inRange = true)
    ∧ (∃ (r : RampId) (x : RampCfg) (s : State), s.active = true ∧ x.inRange = true ∧ x.enabled = false
        ∧ (s.ramp r).cfg.enabled = true ∧ (s.ramp r).state ≠ .disabled)
    ∧ (∃ (r : RampId) (x : RampCfg) (s : State), s.active = true ∧ x.inRange = true
        ∧ x.enabled = (s.ramp r).cfg.enabled ∧ (x.enabled = true ∨ (s.ramp r).state = .disabled)
        ∧ x.zone = (s.ramp r).cfg.zone)
    ∧ (∃ (r : RampId) (x : RampCfg) (s : State), s.active = true ∧ x.inRange = true ∧ x.enabled = true
        ∧ (s.ramp r).cfg.enabled = false ∧ (s.ramp r).state = .disabled ∧ (s.ramp r).cmdDisabled = false
        ∧ s.rampReady r = false)
    ∧ (∃ (r : RampId) (x : RampCfg) (s : State), s.active = true ∧ x.inRange = true ∧ x.enabled = true
        ∧ (s.ramp r).cfg.enabled = false ∧ (s.ramp r).state = .disabled ∧ (s.ramp r).cmdDisabled = false
        ∧ s.rampReady r = true) :=
  ⟨⟨⟨7, .latch, 30000, 2000, 1000, 3, 120, 3, true⟩, .reset, by decide⟩,
   ⟨23, .reset, doorIn .fault .latch, by decide⟩,
   ⟨23, { DoorCfg.reset with kind := .latch, enabled := true, warning := 0 }, doorIn .warning .latch, by unfold awaitsGrant; decide⟩,
   ⟨23, { DoorCfg.reset with kind := .latch, enabled := true, warning := 0 }, doorIn .closed .latch, rfl, by decide, rfl, .inl rfl, rfl, rfl, by unfold warningLaw; decide +kernel⟩,
   ⟨23, { DoorCfg.reset with enabled := true }, .reset, by decide⟩,
   ⟨23, { DoorCfg.reset with kind := .latch, enabled := true }, idleDoor, by decide⟩,
   ⟨{ RampCfg.reset with enabled := true }, .reset, by decide⟩,
   ⟨1, .reset, rampIn .raising, by decide⟩,
   ⟨1, { RampCfg.reset with enabled := true, units := 255 }, rampIn .raising, by decide⟩,
   ⟨1, { RampCfg.reset with enabled := true }, .reset, by decide⟩,
   ⟨1, { RampCfg.reset with enabled := true }, idleRamp, by decide⟩⟩

/-- The premises of PermitWrites can be met. -/
theorem test_premises_PermitWrites :
    (∃ (k : PermitId) (x : PermitEntry) (s : State), s.active = true ∧ x.used = true ∧ x.inRange = true
        ∧ (∀ j, j ≠ k → (s.permit j).used = true → (s.permit j).action ≠ x.action)
        ∧ (∀ r, x.action = .rampLower r ∨ x.action = .rampRaise r → ∀ c ∈ x.conditions, c.subject ≠ some (.ramp r)))
    ∧ (∃ (ws : List Word) (s : State), s.active = true ∧ ws.length = 19)
    ∧ (∃ (k j : PermitId) (x : PermitEntry) (s : State), s.active = true ∧ x.used = true ∧ x.inRange = true ∧ j ≠ k
        ∧ (s.permit j).used = true ∧ (s.permit j).action = x.action)
    ∧ (∃ (k : PermitId) (x : PermitEntry) (r : RampId) (i : Nat) (s : State), s.active = true ∧ x.used = true
        ∧ x.inRange = true ∧ (∀ j, j ≠ k → (s.permit j).used = true → (s.permit j).action ≠ x.action)
        ∧ (x.action = .rampLower r ∨ x.action = .rampRaise r)
        ∧ (x.conditions[i]?).bind Condition.subject = some (.ramp r)
        ∧ (∀ j < i, (x.conditions[j]?).bind Condition.subject ≠ some (.ramp r)))
    ∧ (∃ (p : PinId) (level : Bool) (r : RampId) (e : PermitId) (s : State), (s.pin p).cfg.function = .generalIn
        ∧ (s.pin p).cfg.filter = 0 ∧ level ≠ (s.pin p).raw ∧ level ≠ (s.pin p).filtered ∧ s.driveGuard r = some e
        ∧ s.namesSubject e (.pin p) = true ∧ (s.levelTaken p level).satisfied e = false
        ∧ (∀ q < r, (s.ramp q).state.driven = false))
    ∧ (∃ (p : PinId) (level : Bool) (s : State), (s.pin p).cfg.function = .generalIn ∧ (s.pin p).cfg.filter = 0
        ∧ level ≠ (s.pin p).raw ∧ level ≠ (s.pin p).filtered
        ∧ (∀ r, ∀ e ∈ s.driveGuard r, s.namesSubject e (.pin p) = true →
            (s.levelTaken p level).satisfied e = true)) :=
  ⟨⟨15, permitUsed, .reset, by decide⟩,
   ⟨List.replicate 19 0, .reset, by decide⟩,
   ⟨0, 15, permitUsed, permitted, by decide⟩,
   ⟨15, ⟨true, .rampRaise 1, [.zone 7 2, .door 0 1, .pin 31 true, .ramp 1 1]⟩, 1, 3, .reset, by decide⟩,
   ⟨31, true, 1, 15, watched false, by decide⟩,
   ⟨31, true, watched true, by decide⟩⟩

/-- The premises of TableReads can be met. -/
theorem test_premises_TableReads :
    ∃ (s : State), s.active = true :=
  ⟨.reset, by decide⟩

/-- The premises of StateReads can be met. -/
theorem test_premises_StateReads :
    (∃ (s : State), s.active = true)
    ∧ (∃ (d : DoorId) (k : Nat) (s : State), s.active = true
        ∧ ((s.door d).timer = some (1000 * k) ∨ (s.door d).timer = none ∧ k = 0) ∧ k < 65536)
    ∧ (∃ (r : RampId) (k : Nat) (s : State), s.active = true
        ∧ ((s.ramp r).grace = some (1000 * k) ∨ (s.ramp r).grace = none ∧ k = 0) ∧ k < 65536)
    ∧ (∃ (z : ZoneId) (k : Nat) (s : State), s.active = true
        ∧ ((s.zone z).window = some (1000 * k) ∨ (s.zone z).window = none ∧ k = 0) ∧ k < 65536)
    ∧ (∃ (c : Byte) (s : State), s.active = true ∧ s.findCall c = none)
    ∧ (∃ (c : ChanId) (s : State), s.active = true ∧ s.isSlave c = false ∧ (s.channel c).run = .stopped)
    ∧ (∃ (c : ChanId) (x : PwmRun) (s : State), s.active = true ∧ s.isSlave c = false ∧ (s.channel c).run = .pwm x
        ∧ x.count < 65536 ∧ x.period < 65536 ∧ x.bufPeriod.getD x.period < 65536)
    ∧ (∃ (c : ChanId) (x : PwmRun) (s : State), s.active = true ∧ s.isSlave c = true
        ∧ (s.channel (masterOf c)).run = .pwm x ∧ x.count < 65536 ∧ x.duty < 65536 ∧ x.bufDuty.getD x.duty < 65536)
    ∧ (∃ (c : ChanId) (s : State), s.active = true ∧ s.isSlave c = true ∧ (s.channel (masterOf c)).run = .stopped)
    ∧ (∃ (c : ChanId) (x : CountRun) (s : State), s.active = true ∧ s.isSlave c = false
        ∧ (s.channel c).run = .counting x ∧ x.count < 65536 ∧ x.compare < 65536 ∧ x.capture < 65536)
    ∧ (∃ (c : ChanId) (x : CaptureRun) (s : State), s.active = true ∧ s.isSlave c = false
        ∧ (s.channel c).run = .capturing x ∧ x.count < 65536 ∧ x.stallCount < 65536 ∧ x.capture < 65536)
    ∧ (∃ (ct : Byte) (c : Call) (s : State), s.active = true ∧ s.findCall ct = some c
        ∧ (∀ i ∈ c.items, i.gap.getD 0 % 100000 = 0 ∧ i.gap.getD 0 / 100000 < 65536))
    ∧ (∃ (w : Word) (s : State), s.active = true ∧ 256 ≤ w.toNat) :=
  ⟨⟨.reset, by decide⟩,
   ⟨23, 65535, timedDoor, by decide⟩,
   ⟨1, 65535, timedRamp, by decide⟩,
   ⟨7, 65535, timedZone, by decide⟩,
   ⟨255, .reset, by decide⟩,
   ⟨11, .reset, by decide⟩,
   ⟨10, ⟨0, 0, 9, 8, none, none, true⟩, running, by decide⟩,
   ⟨11, ⟨0, 0, 9, 8, none, none, true⟩, flashing, by decide⟩,
   ⟨11, outputAt .off, by decide⟩,
   ⟨11, ⟨65535, true, 0, false, 0⟩, counter (.zoneDetector 7) ⟨65535, true, 0, false, 0⟩ .reset, by decide⟩,
   ⟨11, ⟨0, 0, 200, 1, false, false⟩, capturing .held, by decide⟩,
   ⟨5, { aCall 5 .crew with items := [⟨7, 1, .waiting, some 6553500000⟩] }, calling { aCall 5 .crew with items := [⟨7, 1, .waiting, some 6553500000⟩] }, by decide⟩,
   ⟨256, .reset, by decide⟩⟩

/-- The premises of BlockWritesAndTheLock can be met. -/
theorem test_premises_BlockWritesAndTheLock :
    ∃ (s : State), s.active = true :=
  ⟨.reset, by decide⟩

/-- The premises of RestartState can be met. -/
theorem test_premises_RestartState :
    (∃ (s : State), s.active = true)
    ∧ (∃ (z : ZoneId) (s : State), s.active = true ∧ (s.zone z).state = .preAlarm ∧ s.inputActive (.detector z) = false)
    ∧ (∃ (z : ZoneId) (s : State), s.active = true ∧ (s.zone z).state = .preAlarm ∧ s.inputActive (.detector z) = true
        ∧ (s.zone z).cfg.threshold = 2
        ∧ ∀ c k, s.chanOf (.zoneDetector z) = some c → (s.channel c).run = .counting k → k.up = true)
    ∧ (∃ (z : ZoneId) (c : ChanId) (k : CountRun) (s : State), s.active = true ∧ (s.zone z).state = .preAlarm
        ∧ s.inputActive (.detector z) = true ∧ s.chanOf (.zoneDetector z) = some c ∧ (s.channel c).run = .counting k
        ∧ k.up = true)
    ∧ (∃ (d : DoorId) (s : State), s.active = true ∧ (s.door d).state = .disabled)
    ∧ (∃ (d : DoorId) (s : State), s.active = true ∧ (s.door d).state ≠ .disabled) :=
  ⟨⟨.reset, by decide⟩,
   ⟨7, zoneIn .preAlarm, by decide⟩,
   ⟨7, twoEdges, by decide, by decide, by decide, by decide, fun c k hc hk => by
     cases hc.symm.trans (show twoEdges.chanOf (.zoneDetector 7) = some 11 by decide)
     cases hk.symm.trans (show (twoEdges.channel 11).run = .counting ⟨0, true, 2, true, 0⟩ by decide)
     rfl⟩,
   ⟨7, 11, ⟨2, true, 3, true, 0⟩, high (windowAt .preAlarm ⟨2, true, 3, true, 0⟩), by decide⟩,
   ⟨23, .reset, by decide⟩,
   ⟨23, doorIn .ajar .latch, by decide⟩⟩

/-- The premises of ZoneAlarms can be met. -/
theorem test_premises_ZoneAlarms :
    (∃ (z : ZoneId) (s : State), s.active = true
        ∧ ((s.zone z).state = .normal ∨ (s.zone z).state = .preAlarm ∨ (s.zone z).state = .isolated))
    ∧ (∃ (z : ZoneId) (s : State), s.active = true ∧ (s.zone z).state = .alarm)
    ∧ (∃ (z : ZoneId) (s : State), s.active = true ∧ (s.zone z).state = .evacuate)
    ∧ (∃ (z : ZoneId) (s : State), s.active = true ∧ ((s.zone z).state = .evacuate ∨ (s.zone z).state = .unused))
    ∧ (∃ (z : ZoneId) (s : State), s.active = true ∧ (s.zone z).state = .unused)
    ∧ (∃ (z : ZoneId) (p : Presentation) (c : Call) (i : ProgressItem) (s : State), s.active = true
        ∧ ((s.zone z).state = .normal ∨ (s.zone z).state = .preAlarm ∨ (s.zone z).state = .isolated)
        ∧ s.presenting z = some p ∧ s.findCall p.tag = some c ∧ c.item z = some i ∧ p.tag.toNat < 240
        ∧ c.cls.isAlarm = false ∧ s.queueLaw ∧ s.calls.queue.length ≤ 7
        ∧ (∀ x ∈ s.calls.queue, x.cls.isAlarm = true → x.item z = none) ∧ s.findCall (alarmTag z) = none)
    ∧ (∃ (z : ZoneId) (s : State), s.active = true
        ∧ ((s.zone z).state = .normal ∨ (s.zone z).state = .preAlarm ∨ (s.zone z).state = .isolated)
        ∧ s.presenting z = none ∧ s.queueLaw ∧ s.calls.queue.length ≤ 7
        ∧ (∀ x ∈ s.calls.queue, x.cls.isAlarm = true → x.item z = none) ∧ s.findCall (alarmTag z) = none)
    ∧ (∃ (z : ZoneId) (p : Presentation) (c : Call) (i : ProgressItem) (s : State), s.active = true
        ∧ (s.zone z).state = .alarm ∧ s.presenting z = some p ∧ p.tag = alarmTag z ∧ s.findCall (alarmTag z) = some c
        ∧ c.cls = .fire ∧ c.pattern = none ∧ c.item z = some i ∧ s.queueLaw
        ∧ (∀ x ∈ s.calls.queue, x.cls.isAlarm = true → x.tag ≠ alarmTag z → x.item z = none))
    ∧ (∃ (z : ZoneId) (r : RampId) (d : DoorId) (s : State), s.active = true ∧ (s.zone z).state = .normal
        ∧ (s.ramp r).cfg.enabled = true ∧ (s.ramp r).cfg.zone = z ∧ (s.ramp r).state.driven = true ∧ s.alarmCloses z d
        ∧ 0 < (s.door d).cfg.warning ∧ s.warningLaw ∧ s.warning z = 0 ∧ (s.zone z).cfg.configured = true
        ∧ s.calls.queue.length < 15 ∧ s.findCall (doorTag z) = none) :=
  ⟨⟨7, zoneIn .isolated, by decide⟩,
   ⟨7, zoneIn .alarm, by decide⟩,
   ⟨7, zoneIn .evacuate, by decide⟩,
   ⟨7, .reset, by decide⟩,
   ⟨7, .reset, by decide⟩,
   ⟨7, ⟨5, .hold, some 1, none, []⟩, aCall 5 .crew, ⟨7, 1, .presenting, none⟩, presents .hold, by unfold queueLaw; decide⟩,
   ⟨7, zoneIn .isolated, by unfold queueLaw; decide⟩,
   ⟨7, _, _, _, alarmStands, by decide, by decide, rfl, by decide, rfl, by decide, by decide, rfl, by unfold queueLaw; decide,
    by decide⟩,
   ⟨7, 1, 23, alarmReady, by unfold alarmCloses warningLaw; decide +kernel⟩⟩

/-- The premises of ZoneMoves can be met. -/
theorem test_premises_ZoneMoves :
    (∃ (z : ZoneId) (s : State), s.active = true
        ∧ ((s.zone z).state = .preAlarm ∨ (s.zone z).state = .alarm ∨ (s.zone z).state = .evacuate)
        ∧ s.sourceActive z = false ∧ s.forbids (.zoneClear z) = none)
    ∧ (∃ (z : ZoneId) (s : State), s.active = true
        ∧ (s.sourceActive z = true ∨ (s.zone z).state = .normal ∨ (s.zone z).state = .isolated
            ∨ (s.zone z).state = .unused))
    ∧ (∃ (z : ZoneId) (k : PermitId) (s : State), s.active = true
        ∧ ((s.zone z).state = .preAlarm ∨ (s.zone z).state = .alarm ∨ (s.zone z).state = .evacuate)
        ∧ s.sourceActive z = false ∧ s.forbids (.zoneClear z) = some k)
    ∧ (∃ (z : ZoneId) (s : State), s.active = true ∧ ((s.zone z).state = .normal ∨ (s.zone z).state = .preAlarm))
    ∧ (∃ (z : ZoneId) (s : State), s.active = true
        ∧ ((s.zone z).state = .alarm ∨ (s.zone z).state = .evacuate ∨ (s.zone z).state = .isolated
            ∨ (s.zone z).state = .unused))
    ∧ (∃ (z : ZoneId) (s : State), s.active = true ∧ (s.zone z).state = .isolated)
    ∧ (∃ (z : ZoneId) (s : State), s.active = true
        ∧ ((s.zone z).state = .normal ∨ (s.zone z).state = .preAlarm ∨ (s.zone z).state = .alarm
            ∨ (s.zone z).state = .evacuate ∨ (s.zone z).state = .unused))
    ∧ (∃ (z : ZoneId) (s : State), (s.zone z).window.isSome = true ∧ (s.zone z).state = .preAlarm)
    ∧ (∃ (z : ZoneId) (s : State), ((s.zone z).window = none ∨ (s.zone z).state ≠ .preAlarm)) :=
  ⟨⟨7, zoneIn .evacuate, by decide⟩,
   ⟨7, pinned (.callPoint 7), by decide⟩,
   ⟨7, 15, permittedZone, by decide⟩,
   ⟨7, zoneIn .preAlarm, by decide⟩,
   ⟨7, zoneIn .alarm, by decide⟩,
   ⟨7, zoneIn .isolated, by decide⟩,
   ⟨7, .reset, by decide⟩,
   ⟨7, zoneIn .preAlarm, by decide⟩,
   ⟨7, .reset, by decide⟩⟩

/-- The premises of ObjectsKept can be met. -/
theorem test_premises_ObjectsKept :
    (∃ (c : Instr), c.onObjects = true)
    ∧ (∃ (c : Instr) (d : DoorId), c.door? = some d)
    ∧ (∃ (c : Instr) (r : RampId), c.ramp? = some r)
    ∧ (∃ (c : Instr) (z : ZoneId), c.zone? = some z)
    ∧ (∃ (c : Instr), c.onCalls = true) :=
  ⟨⟨.loadGrant, by decide⟩,
   ⟨.crewHoldExpiry 23, 23, by decide⟩,
   ⟨.rampStop 0 2, 1, by decide⟩,
   ⟨.isolate .own 0 8, 7, by decide⟩,
   ⟨.gapTimerExpiry 255 7, by decide⟩⟩

/-- The premises of DoorCloses can be met. -/
theorem test_premises_DoorCloses :
    (∃ (d : DoorId) (s : State), s.active = true ∧ ((s.door d).state = .opened ∨ (s.door d).state = .reopening)
        ∧ 0 < (s.door d).cfg.warning)
    ∧ (∃ (d : DoorId) (s : State), s.active = true ∧ ((s.door d).state = .opened ∨ (s.door d).state = .reopening)
        ∧ (s.door d).cfg.warning = 0 ∧ (s.door d).cfg.kind = .magnet)
    ∧ (∃ (d : DoorId) (s : State), s.active = true ∧ ((s.door d).state = .opened ∨ (s.door d).state = .reopening)
        ∧ (s.door d).cfg.warning = 0 ∧ (s.door d).cfg.kind = .latch)
    ∧ (∃ (d : DoorId) (s : State), s.active = true ∧ ((s.door d).state = .ajar ∨ (s.door d).state = .obstructed)
        ∧ (s.door d).cfg.kind = .magnet)
    ∧ (∃ (d : DoorId) (s : State), s.active = true ∧ ((s.door d).state = .ajar ∨ (s.door d).state = .obstructed)
        ∧ (s.door d).cfg.kind = .latch)
    ∧ (∃ (d : DoorId) (s : State), s.active = true
        ∧ ((s.door d).state = .warning ∨ (s.door d).state = .releasing ∨ (s.door d).state = .closing
            ∨ (s.door d).state = .crewHold ∨ (s.door d).state = .closed))
    ∧ (∃ (d : DoorId) (s : State), s.active = true ∧ ((s.door d).state = .fault ∨ (s.door d).state = .disabled)) :=
  ⟨⟨23, doorIn .reopening .latch, by decide⟩,
   ⟨23, swift .opened .magnet, by decide⟩,
   ⟨23, swift .reopening .latch, by decide⟩,
   ⟨23, doorIn .ajar .magnet, by decide⟩,
   ⟨23, doorIn .obstructed .latch, by decide⟩,
   ⟨23, doorIn .crewHold .latch, by decide⟩,
   ⟨23, doorIn .fault .latch, by decide⟩⟩

/-- The premises of DoorReopens can be met. -/
theorem test_premises_DoorReopens :
    (∃ (d : DoorId) (s : State), s.active = true
        ∧ ((s.door d).state = .closed ∨ (s.door d).state = .ajar ∨ (s.door d).state = .obstructed)
        ∧ s.alarmed (s.door d).cfg.zone = false ∧ s.forbids (.doorReopen d) = none ∧ (s.door d).cfg.kind = .latch)
    ∧ (∃ (d : DoorId) (s : State), s.active = true
        ∧ ((s.door d).state = .closed ∨ (s.door d).state = .ajar ∨ (s.door d).state = .obstructed)
        ∧ s.alarmed (s.door d).cfg.zone = false ∧ s.forbids (.doorReopen d) = none ∧ (s.door d).cfg.kind = .magnet)
    ∧ (∃ (d : DoorId) (s : State), s.active = true
        ∧ ((s.door d).state = .opened ∨ (s.door d).state = .warning ∨ (s.door d).state = .releasing
            ∨ (s.door d).state = .closing ∨ (s.door d).state = .crewHold ∨ (s.door d).state = .reopening
                ∨ (s.door d).state = .fault ∨ (s.door d).state = .disabled ∨ s.alarmed (s.door d).cfg.zone = true))
    ∧ (∃ (d : DoorId) (k : PermitId) (s : State), s.active = true
        ∧ ((s.door d).state = .closed ∨ (s.door d).state = .ajar ∨ (s.door d).state = .obstructed)
        ∧ s.alarmed (s.door d).cfg.zone = false ∧ s.forbids (.doorReopen d) = some k) :=
  ⟨⟨23, doorIn .obstructed .latch, by decide⟩,
   ⟨23, doorIn .ajar .magnet, by decide⟩,
   ⟨23, doorIn .crewHold .latch, by decide⟩,
   ⟨23, 15, permittedDoor, by decide⟩⟩

/-- The premises of DoorService can be met. -/
theorem test_premises_DoorService :
    (∃ (d : DoorId) (s : State), s.active = true ∧ (s.door d).state ≠ .disabled)
    ∧ (∃ (d : DoorId) (s : State), s.active = true ∧ (s.door d).state = .disabled)
    ∧ (∃ (d : DoorId) (s : State), s.active = true ∧ (s.door d).state = .disabled ∧ (s.door d).cfg.enabled = false)
    ∧ (∃ (d : DoorId) (s : State), s.active = true ∧ (s.door d).state = .disabled ∧ (s.door d).cfg.enabled = true
        ∧ s.doorReady d = false)
    ∧ (∃ (d : DoorId) (s : State), s.active = true ∧ (s.door d).state = .disabled ∧ (s.door d).cfg.enabled = true
        ∧ s.doorReady d = true)
    ∧ (∃ (d : DoorId) (s : State), s.active = true ∧ (s.door d).state = .disabled ∧ (s.door d).cfg.enabled = true
        ∧ s.doorReady d = true ∧ s.closedLimit d = false ∧ s.openLimit d = true ∧ s.mustClose d = true
        ∧ (s.door d).cfg.warning = 0)
    ∧ (∃ (d : DoorId) (s : State), s.active = true ∧ (s.door d).state = .fault)
    ∧ (∃ (d : DoorId) (s : State), s.active = true ∧ (s.door d).state = .fault ∧ s.closedLimit d = false
        ∧ s.openLimit d = true ∧ s.mustClose d = true ∧ (s.door d).cfg.warning = 0)
    ∧ (∃ (d : DoorId) (s : State), s.active = true ∧ (s.door d).state ≠ .fault) :=
  ⟨⟨23, doorIn .fault .latch, by decide⟩,
   ⟨23, .reset, by decide⟩,
   ⟨23, .reset, by decide⟩,
   ⟨23, doorIn .disabled .latch, by decide⟩,
   ⟨23, readyDoor, by decide⟩,
   ⟨23, burning swiftReady, by decide⟩,
   ⟨23, doorIn .fault .magnet, by decide⟩,
   ⟨23, burning (swift .fault .magnet), by decide⟩,
   ⟨23, .reset, by decide⟩⟩

/-- The premises of DoorTimers can be met. -/
theorem test_premises_DoorTimers :
    (∃ (d : DoorId) (s : State), (s.door d).state = .warning ∧ (s.door d).timer.isSome = true
        ∧ (s.door d).cfg.kind = .magnet)
    ∧ (∃ (d : DoorId) (s : State), ((s.door d).timer = none ∨ (s.door d).state ≠ .warning
        ∨ (s.door d).cfg.kind = .latch))
    ∧ (∃ (d : DoorId) (s : State), (s.door d).state = .warning ∧ (s.door d).timer.isSome = true
        ∧ (s.door d).cfg.kind = .latch)
    ∧ (∃ (d : DoorId) (s : State), ((s.door d).timer = none ∨ (s.door d).state ≠ .warning
        ∨ (s.door d).cfg.kind = .magnet))
    ∧ (∃ (d : DoorId) (s : State), (s.door d).state = .releasing ∧ (s.door d).timer.isSome = true)
    ∧ (∃ (d : DoorId) (s : State), ((s.door d).timer = none ∨ (s.door d).state ≠ .releasing))
    ∧ (∃ (d : DoorId) (s : State), (s.door d).state = .closing ∧ (s.door d).timer.isSome = true
        ∧ ((s.door d).cfg.kind = .magnet ∨ (s.door d).cfg.retries ≤ (s.door d).retriesUsed))
    ∧ (∃ (d : DoorId) (s : State), (s.door d).state = .closing ∧ (s.door d).timer.isSome = true
        ∧ (s.door d).cfg.kind = .latch ∧ (s.door d).retriesUsed < (s.door d).cfg.retries
        ∧ s.functionStanding (.doorRelease d) = .none)
    ∧ (∃ (d : DoorId) (s : State), ((s.door d).timer = none ∨ (s.door d).state ≠ .closing))
    ∧ (∃ (d : DoorId) (s : State), (s.door d).state = .crewHold ∧ (s.door d).timer.isSome = true
        ∧ s.closedLimit d = true ∧ s.openLimit d = false)
    ∧ (∃ (d : DoorId) (s : State), (s.door d).state = .crewHold ∧ (s.door d).timer.isSome = true
        ∧ (s.closedLimit d = false ∨ s.openLimit d = true) ∧ 0 < (s.door d).cfg.warning)
    ∧ (∃ (d : DoorId) (s : State), (s.door d).state = .crewHold ∧ (s.door d).timer.isSome = true
        ∧ (s.closedLimit d = false ∨ s.openLimit d = true) ∧ (s.door d).cfg.warning = 0
        ∧ (s.door d).cfg.kind = .magnet)
    ∧ (∃ (d : DoorId) (s : State), (s.door d).state = .crewHold ∧ (s.door d).timer.isSome = true
        ∧ (s.closedLimit d = false ∨ s.openLimit d = true) ∧ (s.door d).cfg.warning = 0
        ∧ (s.door d).cfg.kind = .latch)
    ∧ (∃ (d : DoorId) (s : State), ((s.door d).timer = none ∨ (s.door d).state ≠ .crewHold))
    ∧ (∃ (d : DoorId) (s : State), (s.door d).state = .reopening ∧ (s.door d).timer.isSome = true)
    ∧ (∃ (d : DoorId) (s : State), ((s.door d).timer = none ∨ (s.door d).state ≠ .reopening))
    ∧ (∃ (p : PinId) (d : DoorId) (level : Bool) (s : State), (s.pin p).cfg.filter = 0 ∧ level ≠ (s.pin p).raw
        ∧ level ≠ (s.pin p).filtered
        ∧ ((s.pin p).cfg.function = .doorClosedLimit d ∨ (s.pin p).cfg.function = .doorOpenLimit d)
        ∧ (s.door d).state ≠ .disabled ∧ (s.door d).state ≠ .fault ∧ (s.levelTaken p level).closedLimit d = true
        ∧ (s.levelTaken p level).openLimit d = true)
    ∧ (∃ (p : PinId) (d : DoorId) (level : Bool) (s : State), (s.pin p).cfg.filter = 0 ∧ level ≠ (s.pin p).raw
        ∧ level ≠ (s.pin p).filtered ∧ s.pinOf (.doorClosedLimit d) = some p
        ∧ (s.pin p).cfg.polarity.apply level = true ∧ (s.levelTaken p level).openLimit d = false
        ∧ ((s.door d).state = .opened ∨ (s.door d).state = .warning ∨ (s.door d).state = .releasing
            ∨ (s.door d).state = .closing ∨ (s.door d).state = .obstructed ∨ (s.door d).state = .ajar
                ∨ (s.door d).state = .reopening
                    ∧ ((s.door d).cfg.kind = .latch ∨ s.functionGranted (.doorHoldback d) = false)))
    ∧ (∃ (p : PinId) (d : DoorId) (level : Bool) (s : State), (s.pin p).cfg.filter = 0 ∧ level ≠ (s.pin p).raw
        ∧ level ≠ (s.pin p).filtered ∧ s.pinOf (.doorClosedLimit d) = some p
        ∧ (s.pin p).cfg.polarity.apply level = false ∧ (s.door d).state = .closed)
    ∧ (∃ (p : PinId) (d : DoorId) (level : Bool) (s : State), (s.pin p).cfg.filter = 0 ∧ level ≠ (s.pin p).raw
        ∧ level ≠ (s.pin p).filtered ∧ s.pinOf (.doorOpenLimit d) = some p
        ∧ (s.pin p).cfg.polarity.apply level = false
        ∧ ((s.levelTaken p level).closedLimit d = false ∨ (s.levelTaken p level).openLimit d = false)
        ∧ (s.door d).state = .opened)
    ∧ (∃ (p : PinId) (d : DoorId) (level : Bool) (s : State), (s.pin p).cfg.filter = 0 ∧ level ≠ (s.pin p).raw
        ∧ level ≠ (s.pin p).filtered ∧ s.pinOf (.doorOpenLimit d) = some p ∧ (s.pin p).cfg.polarity.apply level = true
        ∧ (s.levelTaken p level).closedLimit d = false ∧ (s.door d).state = .reopening
        ∧ ((s.door d).cfg.kind = .latch ∨ s.functionGranted (.doorHoldback d) = true)) :=
  ⟨⟨23, doorIn .warning .magnet, by decide⟩,
   ⟨23, doorIn .warning .latch, by decide⟩,
   ⟨23, doorIn .warning .latch, by decide⟩,
   ⟨23, doorIn .warning .magnet, by decide⟩,
   ⟨23, doorIn .releasing .latch, by decide⟩,
   ⟨23, .reset, by decide⟩,
   ⟨23, doorIn .closing .magnet, by decide⟩,
   ⟨23, doorIn .closing .latch, by decide⟩,
   ⟨23, .reset, by decide⟩,
   ⟨23, shutDoor, by decide⟩,
   ⟨23, doorIn .crewHold .magnet, by decide⟩,
   ⟨23, swift .crewHold .magnet, by decide⟩,
   ⟨23, swift .crewHold .latch, by decide⟩,
   ⟨23, .reset, by decide⟩,
   ⟨23, doorIn .reopening .magnet, by decide⟩,
   ⟨23, .reset, by decide⟩,
   ⟨31, 23, true, rampPin (limitOf (doorIn .closing .latch) (.doorClosedLimit 23)) 0 (.doorOpenLimit 23), by decide⟩,
   ⟨31, 23, true, limitOf (doorIn .reopening .magnet) (.doorClosedLimit 23), by decide⟩,
   ⟨31, 23, false, high (limitOf (doorIn .closed .latch) (.doorClosedLimit 23)), by decide⟩,
   ⟨31, 23, false, high (limitOf (doorIn .opened .magnet) (.doorOpenLimit 23)), by decide⟩,
   ⟨31, 23, true, limitOf (doorIn .reopening .latch) (.doorOpenLimit 23), by decide⟩⟩

/-- The premises of RampStops can be met. -/
theorem test_premises_RampStops :
    (∃ (r : RampId) (s : State), s.active = true ∧ (s.ramp r).state.isActive = true)
    ∧ (∃ (r : RampId) (s : State), s.active = true ∧ (s.ramp r).state.isActive = false)
    ∧ (∃ (r : RampId) (s : State), s.active = true ∧ (s.ramp r).state ≠ .disabled)
    ∧ (∃ (r : RampId) (s : State), s.active = true ∧ (s.ramp r).state = .disabled) :=
  ⟨⟨1, rampIn .locking, by decide⟩,
   ⟨1, rampIn .fault, by decide⟩,
   ⟨1, rampIn .fault, by decide⟩,
   ⟨1, .reset, by decide⟩⟩

/-- The premises of RampEnables can be met. -/
theorem test_premises_RampEnables :
    (∃ (r : RampId) (s : State), s.active = true ∧ (s.ramp r).state ≠ .disabled)
    ∧ (∃ (r : RampId) (s : State), s.active = true ∧ (s.ramp r).state = .disabled ∧ (s.ramp r).cfg.enabled = false)
    ∧ (∃ (r : RampId) (s : State), s.active = true ∧ (s.ramp r).state = .disabled ∧ (s.ramp r).cfg.enabled = true
        ∧ s.rampReady r = false)
    ∧ (∃ (r : RampId) (s : State), s.active = true ∧ (s.ramp r).state = .disabled ∧ (s.ramp r).cfg.enabled = true
        ∧ s.rampReady r = true)
    ∧ (∃ (r : RampId) (s : State), s.active = true ∧ (s.ramp r).state = .fault)
    ∧ (∃ (r : RampId) (s : State), s.active = true ∧ (s.ramp r).state ≠ .fault) :=
  ⟨⟨1, rampIn .held, by decide⟩,
   ⟨1, .reset, by decide⟩,
   ⟨1, rampIn .disabled, by decide⟩,
   ⟨1, readyRamp, by decide⟩,
   ⟨1, rampIn .fault, by decide⟩,
   ⟨1, .reset, by decide⟩⟩

/-- The premises of RampTimers can be met. -/
theorem test_premises_RampTimers :
    (∃ (r : RampId) (s : State), (s.ramp r).grace.isSome = true ∧ (s.ramp r).state.isActive = true)
    ∧ (∃ (r : RampId) (s : State), ((s.ramp r).grace = none ∨ (s.ramp r).state.isActive = false))
    ∧ (∃ (r : RampId) (s : State), (s.ramp r).timer.isSome = true ∧ (s.ramp r).state = .unlocking
        ∧ s.lockedLimit r = true)
    ∧ (∃ (r : RampId) (s : State), (s.ramp r).timer.isSome = true ∧ (s.ramp r).state = .unlocking
        ∧ s.lockedLimit r = false)
    ∧ (∃ (r : RampId) (s : State), ((s.ramp r).timer = none ∨ (s.ramp r).state ≠ .unlocking))
    ∧ (∃ (r : RampId) (s : State), (s.ramp r).timer.isSome = true ∧ (s.ramp r).state = .locking)
    ∧ (∃ (r : RampId) (s : State), ((s.ramp r).timer = none ∨ (s.ramp r).state ≠ .locking))
    ∧ (∃ (p : PinId) (r : RampId) (level : Bool) (s : State), (s.pin p).cfg.filter = 0 ∧ level ≠ (s.pin p).raw
        ∧ level ≠ (s.pin p).filtered
        ∧ ((s.pin p).cfg.function = .rampStowLimit r ∨ (s.pin p).cfg.function = .rampLandLimit r) ∧ s.pinUnwatched p
        ∧ (s.ramp r).state ≠ .disabled ∧ (s.ramp r).state ≠ .fault ∧ (s.levelTaken p level).stowLimit r = true
        ∧ (s.levelTaken p level).landLimit r = true)
    ∧ (∃ (p : PinId) (r : RampId) (level : Bool) (s : State), (s.pin p).cfg.filter = 0 ∧ level ≠ (s.pin p).raw
        ∧ level ≠ (s.pin p).filtered ∧ s.pinUnwatched p
        ∧ ((s.levelTaken p level).stowLimit r = false ∨ (s.levelTaken p level).landLimit r = false)
        ∧ ((s.ramp r).state = .stowed ∧ (s.pin p).cfg.function = .rampStowLimit r
            ∧ (s.pin p).cfg.polarity.apply level = false
        ∨ (s.ramp r).state = .stowed ∧ (s.pin p).cfg.function = .rampLockedLimit r
            ∧ (s.pin p).cfg.polarity.apply level = false
        ∨ (s.ramp r).state = .landed ∧ (s.pin p).cfg.function = .rampLandLimit r
            ∧ (s.pin p).cfg.polarity.apply level = false
        ∨ (s.ramp r).state = .lowering ∧ (s.pin p).cfg.function = .rampStowLimit r
            ∧ (s.pin p).cfg.polarity.apply level = true
        ∨ (s.ramp r).state = .raising ∧ (s.pin p).cfg.function = .rampLandLimit r
            ∧ (s.pin p).cfg.polarity.apply level = true
        ∨ (s.ramp r).state = .locking ∧ (s.pin p).cfg.function = .rampStowLimit r
            ∧ (s.pin p).cfg.polarity.apply level = false))
    ∧ (∃ (p : PinId) (r : RampId) (level : Bool) (s : State), (s.pin p).cfg.filter = 0 ∧ level ≠ (s.pin p).raw
        ∧ level ≠ (s.pin p).filtered ∧ s.pinUnwatched p
        ∧ ((s.levelTaken p level).stowLimit r = false ∨ (s.levelTaken p level).landLimit r = false)
        ∧ s.pinOf (.rampLandLimit r) = some p ∧ (s.pin p).cfg.polarity.apply level = true
        ∧ ((s.ramp r).state = .lowering ∨ (s.ramp r).state = .held))
    ∧ (∃ (p : PinId) (r : RampId) (level : Bool) (s : State), (s.pin p).cfg.filter = 0 ∧ level ≠ (s.pin p).raw
        ∧ level ≠ (s.pin p).filtered ∧ s.pinUnwatched p
        ∧ ((s.levelTaken p level).stowLimit r = false ∨ (s.levelTaken p level).landLimit r = false)
        ∧ ((s.ramp r).state = .locking ∧ s.pinOf (.rampLockedLimit r) = some p
            ∧ (s.pin p).cfg.polarity.apply level = true
        ∨ (s.ramp r).state = .held ∧ s.pinOf (.rampStowLimit r) = some p
            ∧ (s.pin p).cfg.polarity.apply level = true ∧ (s.ramp r).lockWanted = false ∧ s.lockedLimit r = true
        ∨ (s.ramp r).state = .held ∧ s.pinOf (.rampLockedLimit r) = some p
            ∧ (s.pin p).cfg.polarity.apply level = true ∧ (s.ramp r).lockWanted = false ∧ s.stowLimit r = true))
    ∧ (∃ (p : PinId) (r : RampId) (level : Bool) (s : State), (s.pin p).cfg.filter = 0 ∧ level ≠ (s.pin p).raw
        ∧ level ≠ (s.pin p).filtered ∧ s.pinUnwatched p
        ∧ ((s.levelTaken p level).stowLimit r = false ∨ (s.levelTaken p level).landLimit r = false)
        ∧ (s.pin p).cfg.function = .rampStowLimit r ∧ (s.pin p).cfg.polarity.apply level = true
        ∧ (s.ramp r).state = .raising)
    ∧ (∃ (p : PinId) (r : RampId) (level : Bool) (s : State), (s.pin p).cfg.filter = 0 ∧ level ≠ (s.pin p).raw
        ∧ level ≠ (s.pin p).filtered ∧ s.pinUnwatched p
        ∧ ((s.levelTaken p level).stowLimit r = false ∨ (s.levelTaken p level).landLimit r = false)
        ∧ s.pinOf (.rampLockedLimit r) = some p ∧ (s.pin p).cfg.polarity.apply level = false
        ∧ (s.ramp r).state = .unlocking) :=
  ⟨⟨1, rampIn .locking, by decide⟩,
   ⟨1, .reset, by decide⟩,
   ⟨1, lockedRamp, by decide⟩,
   ⟨1, rampIn .unlocking, by decide⟩,
   ⟨1, rampIn .locking, by decide⟩,
   ⟨1, rampIn .locking, by decide⟩,
   ⟨1, rampIn .unlocking, by decide⟩,
   ⟨31, 1, true, rampPin (limitOf (rampIn .raising) (.rampStowLimit 1)) 0 (.rampLandLimit 1), by unfold pinUnwatched; decide⟩,
   ⟨31, 1, false, high (limitOf (rampIn .landed) (.rampLandLimit 1)), by unfold pinUnwatched; decide⟩,
   ⟨31, 1, true, limitOf (rampIn .lowering) (.rampLandLimit 1), by unfold pinUnwatched; decide⟩,
   ⟨31, 1, true, limitOf (rampIn .locking) (.rampLockedLimit 1), by unfold pinUnwatched; decide⟩,
   ⟨31, 1, true, limitOf (rampIn .raising) (.rampStowLimit 1), by unfold pinUnwatched; decide⟩,
   ⟨31, 1, false, high (limitOf (rampIn .unlocking) (.rampLockedLimit 1)), by unfold pinUnwatched; decide⟩⟩

/-- The premises of BranchCommands can be met. -/
theorem test_premises_BranchCommands :
    (∃ (b : BranchId) (s : State), s.active = true
        ∧ ((s.branch b).state = .disabled ∨ (s.branch b).state = .contended) ∧ (s.branch b).cfg.enable = true)
    ∧ (∃ (b : BranchId) (s : State), s.active = true
        ∧ ((s.branch b).state = .disabled ∨ (s.branch b).state = .contended) ∧ (s.branch b).cfg.enable = false)
    ∧ (∃ (b : BranchId) (s : State), s.active = true ∧ ((s.branch b).state = .idle ∨ (s.branch b).state = .burst))
    ∧ (∃ (b : BranchId) (s : State), s.active = true ∧ (s.branch b).state ≠ .disabled)
    ∧ (∃ (b : BranchId) (s : State), s.active = true ∧ (s.branch b).state = .disabled)
    ∧ (∃ (b : BranchId) (s : State), ((s.branch b).state = .idle ∨ (s.branch b).state = .burst))
    ∧ (∃ (b : BranchId) (s : State), ((s.branch b).state = .disabled ∨ (s.branch b).state = .contended)) :=
  ⟨⟨3, branchIn .contended, by decide⟩,
   ⟨3, .reset, by decide⟩,
   ⟨3, branchIn .burst, by decide⟩,
   ⟨3, branchIn .contended, by decide⟩,
   ⟨3, .reset, by decide⟩,
   ⟨3, branchIn .burst, by decide⟩,
   ⟨3, branchIn .contended, by decide⟩⟩

/-- The premises of BurstEnds can be met. -/
theorem test_premises_BurstEnds :
    (∃ (b : BranchId) (x : BurstRecord) (ret : ReturnStream) (s : State), (s.branch b).state = .burst
        ∧ (s.branch b).burst = some x ∧ (s.branch b).held = false
        ∧ (ret = .garbled ∨ (∃ ws, ret = .words ws ∧ goodReturn x.entries.length ws = false)))
    ∧ (∃ (b : BranchId) (x p : BurstRecord) (ws : List ChainWord) (s : State), (s.branch b).state = .burst
        ∧ (s.branch b).burst = some x ∧ (s.branch b).held = false ∧ goodReturn x.entries.length ws = true
        ∧ (s.branch b).previous = some p ∧ (x.entries.map BurstEntry.place).Nodup)
    ∧ (∃ (b : BranchId) (x p : BurstRecord) (s : State), (s.branch b).state = .burst ∧ (s.branch b).burst = some x
        ∧ (s.branch b).held = false ∧ (s.branch b).previous = some p ∧ (x.entries.map BurstEntry.place).Nodup)
    ∧ (∃ (b : BranchId) (x : BurstRecord) (ret : ReturnStream) (s : State), (s.branch b).state = .burst
        ∧ (s.branch b).burst = some x ∧ (s.branch b).previous = none ∧ ret ≠ .garbled)
    ∧ (∃ (b : BranchId) (x : BurstRecord) (s : State), (s.branch b).state = .burst ∧ (s.branch b).burst = some x
        ∧ (s.branch b).held = true ∧ s.enabledPlaces b ≠ [])
    ∧ (∃ (b : BranchId) (x p : BurstRecord) (ws : List ChainWord) (s : State), (s.branch b).state = .burst
        ∧ (s.branch b).burst = some x ∧ goodReturn x.entries.length ws = true ∧ (s.branch b).previous = some p
        ∧ (x.entries.map BurstEntry.place).Nodup ∧ 8 ≤ (s.branch b).checkRun
        ∧ ∃ y ∈ x.entries.zip ws, y.1.cls = .sensor ∧ (s.rightFrom b p y).isSome = true)
    ∧ (∃ (b : BranchId) (x p : BurstRecord) (ws : List ChainWord) (q : Presentation) (s : State), (s.branch b).state = .burst
        ∧ (s.branch b).burst = some x ∧ (s.branch b).held = false ∧ goodReturn x.entries.length ws = true
        ∧ (s.branch b).previous = some p ∧ (x.entries.map BurstEntry.place).Nodup ∧ (∀ e ∈ x.entries, e.cls ≠ .sensor)
        ∧ s.presenting 7 = some q ∧ q.phase = .clip
        ∧ ∃ y ∈ x.entries.zip ws, y.1.cls = .pa ∧ (s.rightFrom b p y).isSome = true ∧ posIndex b y.1.place ∈ q.awaited)
    ∧ (∃ (b : BranchId) (x p : BurstRecord) (ws : List ChainWord) (s : State), (s.branch b).state = .burst
        ∧ (s.branch b).burst = some x ∧ (s.branch b).held = false ∧ goodReturn x.entries.length ws = true
        ∧ (s.branch b).previous = some p ∧ (x.entries.map BurstEntry.place).Nodup ∧ (∀ e ∈ x.entries, e.cls ≠ .sensor)
        ∧ ∃ y ∈ x.entries.zip ws, y.1.cls = .sign ∧ (s.rightFrom b p y).isSome = true)
    ∧ (∃ (b : BranchId) (x p : BurstRecord) (s : State), (s.branch b).state = .burst ∧ (s.branch b).burst = some x
        ∧ (s.branch b).held = false ∧ (s.branch b).previous = some p ∧ (x.entries.map BurstEntry.place).Nodup
        ∧ ∃ e ∈ x.entries, s.turnsAbsent b p e = true)
    ∧ (∃ (b : BranchId) (x : BurstRecord) (s : State), (s.branch b).state = .burst ∧ (s.branch b).burst = some x
        ∧ (s.branch b).held = true ∧ s.enabledPlaces b = [])
    ∧ (∃ (b : BranchId) (s : State), ((s.branch b).state ≠ .burst ∨ (s.branch b).burst = none))
    ∧ (∃ (s : State), s.branchLaw) :=
  ⟨⟨3, record 1, .words [0], inBurst false none, ⟨by decide, by decide, by decide, .inr ⟨[0], rfl, by decide⟩⟩⟩,
   ⟨3, record 1, record 0, [0x800009, (crc16 [(0x800009 : ChainWord)]).setWidth 24], inBurst false (some (record 0)), by decide +kernel⟩,
   ⟨3, record 1, record 0, inBurst false (some (record 0)), by decide⟩,
   ⟨3, record 1, .silent, inBurst false none, by decide⟩,
   ⟨3, record 1, inBurst true none, by decide⟩,
   ⟨3, nodeRecord 1 .sensor, nodeRecord 0 .sensor, nodeReturn .sensor 0x100, nodeBurst .sensor 0 false, by decide +kernel⟩,
   ⟨3, nodeRecord 1 .pa, nodeRecord 0 .pa, nodeReturn .pa 0, ⟨5, .clip, none, some 1, [63]⟩, nodeBurst .pa 0 false,
    by decide +kernel⟩,
   ⟨3, nodeRecord 1 .sign, nodeRecord 0 .sign, nodeReturn .sign 1, nodeBurst .sign 0 false, by decide +kernel⟩,
   ⟨3, nodeRecord 1 .sign, nodeRecord 0 .sign, nodeBurst .sign 2 false, by decide +kernel⟩,
   ⟨3, nodeRecord 1 .general, nodeBurst .general 0 true, by decide +kernel⟩,
   ⟨3, branchIn .idle, by decide⟩,
   ⟨inBurst true none, by unfold branchLaw; decide +kernel⟩⟩

/-- The premises of CallPostAndCancel can be met. -/
theorem test_premises_CallPostAndCancel :
    (∃ (ct : Byte) (cls : CallClass) (set : Word) (clip : Option Byte) (block : Option BlockId) (gap : Nat) (s : State), s.active = true ∧ ct.toNat < 240 ∧ cls.isAlarm = false ∧ 1 ≤ set.toNat ∧ set.toNat ≤ 255 ∧ (clip.isSome = true ∨ block.isSome = true) ∧ gap ≤ 60 ∧ (∀ z ∈ setZones set, (s.zone z).state ≠ .unused) ∧ s.findCall ct = none ∧ s.calls.queue.length < 16)
    ∧ (∃ (ct : Byte) (cls : CallClass) (set : Word) (clip : Option Byte) (block : Option BlockId) (gap : Nat) (v : Call) (s : State), s.active = true ∧ ct.toNat < 240 ∧ cls.isAlarm = false ∧ 1 ≤ set.toNat ∧ set.toNat ≤ 255 ∧ (clip.isSome = true ∨ block.isSome = true) ∧ gap ≤ 60 ∧ (∀ z ∈ setZones set, (s.zone z).state ≠ .unused) ∧ s.findCall ct = none ∧ 16 ≤ s.calls.queue.length ∧ victim cls s.calls.queue = some v)
    ∧ (∃ (ct : Byte) (cls : CallClass) (set : Word) (clip : Option Byte) (block : Option BlockId) (gap : Nat) (s : State), s.active = true ∧ ct.toNat < 240 ∧ cls.isAlarm = false ∧ 1 ≤ set.toNat ∧ set.toNat ≤ 255 ∧ (clip.isSome = true ∨ block.isSome = true) ∧ gap ≤ 60 ∧ (∀ z ∈ setZones set, (s.zone z).state ≠ .unused) ∧ s.findCall ct = none ∧ 16 ≤ s.calls.queue.length ∧ (∀ c ∈ s.calls.queue, cls.rank ≤ c.cls.rank))
    ∧ (∃ (ct : Byte) (cls : CallClass) (set : Word) (clip : Option Byte) (block : Option BlockId) (gap : Nat) (s : State), s.active = true ∧ ct.toNat < 240 ∧ cls.isAlarm = false ∧ 1 ≤ set.toNat ∧ set.toNat ≤ 255 ∧ (clip.isSome = true ∨ block.isSome = true) ∧ gap ≤ 60 ∧ (∃ z ∈ setZones set, (s.zone z).state = .unused))
    ∧ (∃ (ct : Byte) (cls : CallClass) (set : Word) (clip : Option Byte) (block : Option BlockId) (gap : Nat) (s : State), s.active = true ∧ ct.toNat < 240 ∧ cls.isAlarm = false ∧ 1 ≤ set.toNat ∧ set.toNat ≤ 255 ∧ (clip.isSome = true ∨ block.isSome = true) ∧ gap ≤ 60 ∧ (∀ z ∈ setZones set, (s.zone z).state ≠ .unused) ∧ (s.findCall ct).isSome = true)
    ∧ (∃ (ct : Byte) (s : State), s.active = true ∧ ct.toNat < 240 ∧ (s.findCall ct).isSome = true)
    ∧ (∃ (ct : Byte) (s : State), s.active = true ∧ ct.toNat < 240 ∧ s.findCall ct = none)
    ∧ (∃ (w : Word) (s : State), s.active = true ∧ 240 ≤ w.toNat)
    ∧ (∃ (ct : Byte) (cls : CallClass) (set : Word) (gap : Nat) (z : ZoneId) (s : State), s.active = true
        ∧ ct.toNat < 240 ∧ cls.isAlarm = false ∧ set.toNat ≤ 255 ∧ gap ≤ 60
        ∧ (∀ z ∈ setZones set, (s.zone z).state ≠ .unused) ∧ s.calls.queue = [] ∧ z ∈ setZones set
        ∧ s.presenting z = none) :=
  ⟨⟨239, .safety, 128, some 255, none, 60, zoneIn .isolated, by decide⟩,
   ⟨239, .safety, 128, none, some 7, 0, aCall 16 .crew, crowded .crew, by decide⟩,
   ⟨239, .passenger, 128, some 0, none, 0, crowded .passenger, by decide⟩,
   ⟨239, .safety, 255, some 255, none, 60, zoneIn .normal, by decide⟩,
   ⟨5, .safety, 128, some 255, none, 60, calling (aCall 5 .crew), by decide⟩,
   ⟨239, calling (aCall 239 .crew), by decide⟩,
   ⟨239, .reset, by decide⟩,
   ⟨240, .reset, by decide⟩,
   ⟨239, .safety, 128, 60, 7, zoneIn .isolated, by decide⟩⟩

/-- The premises of CallTimers can be met. -/
theorem test_premises_CallTimers :
    (∃ (z : ZoneId) (p : Presentation) (c : Call) (i : ProgressItem) (s : State), s.presenting z = some p
        ∧ p.phase = .hold ∧ p.holdTimer.isSome = true ∧ s.queueLaw ∧ s.findCall p.tag = some c ∧ c.item z = some i
        ∧ (c.items.map ProgressItem.zone).Nodup)
    ∧ (∃ (z : ZoneId) (s : State), (s.presenting z = none
        ∨ (∃ p, s.presenting z = some p ∧ (p.phase ≠ .hold ∨ p.holdTimer = none))))
    ∧ (∃ (z : ZoneId) (p : Presentation) (s : State), s.presenting z = some p ∧ p.phase = .clip
        ∧ p.clipTimer.isSome = true)
    ∧ (∃ (z : ZoneId) (s : State), (s.presenting z = none
        ∨ (∃ p, s.presenting z = some p ∧ (p.phase ≠ .clip ∨ p.clipTimer = none))))
    ∧ (∃ (ct : Byte) (z : ZoneId) (c : Call) (i : ProgressItem) (s : State), s.findCall ct = some c
        ∧ c.item z = some i ∧ i.gap.isSome = true)
    ∧ (∃ (ct : Byte) (z : ZoneId) (s : State), ((s.findCall ct).bind (·.item z) = none
        ∨ (∃ i, (s.findCall ct).bind (·.item z) = some i ∧ i.gap = none))) :=
  ⟨⟨7, ⟨5, .hold, some 1, none, []⟩, aCall 5 .crew, ⟨7, 1, .presenting, none⟩, presents .hold, by unfold queueLaw; decide⟩,
   ⟨7, .reset, by decide⟩,
   ⟨7, ⟨5, .clip, some 1, some 1, []⟩, presents .clip, by decide⟩,
   ⟨7, .reset, by decide⟩,
   ⟨5, 7, { aCall 5 .crew with items := [⟨7, 1, .waiting, some 1⟩] }, ⟨7, 1, .waiting, some 1⟩, calling { aCall 5 .crew with items := [⟨7, 1, .waiting, some 1⟩] }, by decide⟩,
   ⟨5, 7, .reset, by decide⟩⟩

/-- The premises of ChimePlayer can be met. -/
theorem test_premises_ChimePlayer :
    (∃ (s : State), s.player.state = .on ∧ s.player.timer.isSome = true
        ∧ s.player.played + 1 < (s.chime s.player.pattern).repetitions)
    ∧ (∃ (s : State), s.player.state = .on ∧ s.player.timer.isSome = true
        ∧ (s.chime s.player.pattern).repetitions ≤ s.player.played + 1)
    ∧ (∃ (s : State), (s.player.state ≠ .on ∨ s.player.timer = none))
    ∧ (∃ (s : State), s.player.state = .off ∧ s.player.timer.isSome = true)
    ∧ (∃ (s : State), (s.player.state ≠ .off ∨ s.player.timer = none))
    ∧ (∃ (x : ChimeRecord) (s : State), s.player.state = .on ∧ s.player.timer.isSome = true
        ∧ (s.chime s.player.pattern).repetitions ≤ s.player.played + 1 ∧ s.calls.chime = some x ∧ s.chimeWaiting = [])
    ∧ (∃ (x : ChimeRecord) (z : ZoneId) (c : Call) (k : ChimeId) (s : State), s.player.state = .on
        ∧ s.player.timer.isSome = true ∧ (s.chime s.player.pattern).repetitions ≤ s.player.played + 1
        ∧ s.calls.chime = some x ∧ s.chimeWaiting = [z] ∧ z ∉ x.zones ∧ s.queueLaw ∧ s.presentedCall z = some c
        ∧ c.pattern = some k) :=
  ⟨⟨playing .on 15, by decide⟩,
   ⟨playing .on 1, by decide⟩,
   ⟨.reset, by decide⟩,
   ⟨playing .off 1, by decide⟩,
   ⟨.reset, by decide⟩,
   ⟨⟨5, .crew, [7]⟩, ending, by decide⟩,
   ⟨⟨6, .safety, [0]⟩, 7, { aCall 5 .crew with pattern := some 7 }, 7, chimeWaits, by unfold queueLaw; decide⟩⟩

/-- The premises of OutputSettings can be met. -/
theorem test_premises_OutputSettings :
    (∃ (p : PinId) (s : State), s.active = true ∧ (s.pin p).cfg.function = .generalOut ∧ (s.pin p).setting ≠ .on)
    ∧ (∃ (p : PinId) (s : State), s.active = true ∧ (s.pin p).cfg.function = .generalOut ∧ (s.pin p).setting = .on)
    ∧ (∃ (p : PinId) (f : FlashPair) (s : State), s.active = true ∧ (s.pin p).cfg.function = .generalOut
        ∧ (s.chanOf (if f = .flash1 then .flash1 else .flash2)).isSome = true
        ∧ (s.pin p).setting ≠ (if f = .flash1 then .flash1 else .flash2))
    ∧ (∃ (p : PinId) (f : FlashPair) (s : State), s.active = true ∧ (s.pin p).cfg.function = .generalOut
        ∧ (s.chanOf (if f = .flash1 then .flash1 else .flash2)).isSome = true
        ∧ (s.pin p).setting = (if f = .flash1 then .flash1 else .flash2))
    ∧ (∃ (p : PinId) (s : State), s.active = true ∧ (s.pin p).cfg.function = .generalOut ∧ (s.pin p).setting ≠ .off)
    ∧ (∃ (p : PinId) (s : State), s.active = true ∧ (s.pin p).cfg.function = .generalOut ∧ (s.pin p).setting = .off)
    ∧ (∃ (p : PinId) (s : State), s.active = true ∧ (s.pin p).cfg.function ≠ .generalOut)
    ∧ (∃ (p : PinId) (s : State), s.active = true ∧ (s.pin p).cfg.function ≠ .generalOut)
    ∧ (∃ (p : PinId) (f : FlashPair) (s : State), s.active = true ∧ (s.pin p).cfg.function = .generalOut
        ∧ s.chanOf (if f = .flash1 then .flash1 else .flash2) = none) :=
  ⟨⟨31, outputAt .flash2, by decide⟩,
   ⟨31, outputAt .on, by decide⟩,
   ⟨31, .flash2, outputAt .off, by decide⟩,
   ⟨31, .flash2, outputAt .flash2, by decide⟩,
   ⟨31, outputAt .flash2, by decide⟩,
   ⟨31, outputAt .off, by decide⟩,
   ⟨31, .reset, by decide⟩,
   ⟨31, .reset, by decide⟩,
   ⟨31, .flash1, outputAt .off, by decide⟩⟩

/-- The premises of SilenceAndLocalCycle can be met. -/
theorem test_premises_SilenceAndLocalCycle :
    (∃ (s : State), s.trunk.silence.isSome = true ∧ s.trunk.mode ≠ .localMode)
    ∧ (∃ (s : State), (s.trunk.silence = none ∨ s.trunk.mode = .localMode))
    ∧ (∃ (s : State), s.trunk.localCycle.isSome = true ∧ s.trunk.mode = .localMode)
    ∧ (∃ (s : State), (s.trunk.localCycle = none ∨ s.trunk.mode ≠ .localMode))
    ∧ (∃ (n : PosId) (s : State), s.trunk.localCycle.isSome = true ∧ s.trunk.mode = .localMode
        ∧ (s.branch (branchOf n)).state = .idle ∧ (s.position n).cfg.enabled = true)
    ∧ (∃ (k : BlockId) (x : SignTransfer), x.away = false ∧ x.again = none ∧ x.status = .running
        ∧ x.rasterOnly = false ∧ x.next = none ∧ x.target = some k)
    ∧ (∃ (x : SignTransfer), x.away = false ∧ x.again = none ∧ x.status = .running ∧ x.rasterOnly = false
        ∧ x.next = none ∧ x.target = none)
    ∧ (∃ (k : BlockId) (i : Fin 48) (x : SignTransfer), x.away = false ∧ x.again = none ∧ x.status = .running
        ∧ x.rasterOnly = false ∧ x.next = some i ∧ x.target = some k)
    ∧ (∃ (x : SignTransfer), x.away = false ∧ x.again = none ∧ (x.status = .running ∨ x.status = .ended)
        ∧ x.rasterOnly = true)
    ∧ (∃ (x : SignTransfer), (x.away = true ∨ x.again = none
        ∧ (x.status = .stopped ∨ x.status = .gaveUp ∨ x.status = .ended ∧ x.rasterOnly = false)))
    ∧ (∃ (w : CommandWord) (x : SignTransfer), x.away = false ∧ x.again = some w) :=
  ⟨⟨.reset, by decide⟩,
   ⟨inLocal, by decide⟩,
   ⟨inLocal, by decide⟩,
   ⟨.reset, by decide⟩,
   ⟨63, localBurst, by decide⟩,
   ⟨7, { SignTransfer.reset with status := .running, target := some 7 }, by decide⟩,
   ⟨{ SignTransfer.reset with status := .running }, by decide⟩,
   ⟨7, 47, { SignTransfer.reset with status := .running, target := some 7, next := some 47 }, by decide⟩,
   ⟨{ SignTransfer.reset with status := .ended, rasterOnly := true }, by decide⟩,
   ⟨.reset, by decide⟩,
   ⟨.signIdle, { SignTransfer.reset with again := some .signIdle }, by decide⟩⟩

/-- The premises of RawLevels can be met. -/
theorem test_premises_RawLevels :
    (∃ (p : PinId) (level : Bool) (s : State), level = (s.pin p).raw)
    ∧ (∃ (p : PinId) (s : State), (s.pin p).cfg.function.isInput = false)
    ∧ (∃ (p : PinId) (level : Bool) (s : State), (s.pin p).cfg.function.isInput = true ∧ level ≠ (s.pin p).raw
        ∧ level = (s.pin p).filtered)
    ∧ (∃ (p : PinId) (level : Bool) (s : State), (s.pin p).cfg.function.isInput = true ∧ level ≠ (s.pin p).raw
        ∧ level ≠ (s.pin p).filtered ∧ (s.pin p).cfg.filter ≠ 0)
    ∧ (∃ (p : PinId) (level : Bool) (s : State), (s.pin p).cfg.function.isInput = true ∧ (s.pin p).cfg.filter = 0
        ∧ level ≠ (s.pin p).raw ∧ level ≠ (s.pin p).filtered)
    ∧ (∃ (p : PinId) (s : State), (s.pin p).filterTimer.isSome = true)
    ∧ (∃ (p : PinId) (s : State), (s.pin p).filterTimer = none)
    ∧ (∃ (p : PinId) (z : ZoneId) (level : Bool) (s : State), (s.pin p).cfg.filter = 0 ∧ level ≠ (s.pin p).raw
        ∧ level ≠ (s.pin p).filtered ∧ (s.pin p).cfg.polarity.apply level = true
        ∧ (s.pin p).cfg.function = .detector z ∧ (s.zone z).state = .normal
        ∧ ((s.zone z).cfg.threshold = 1 ∨ s.chanOf (.zoneDetector z) = none))
    ∧ (∃ (p : PinId) (z : ZoneId) (level : Bool) (s : State), (s.pin p).cfg.filter = 0 ∧ level ≠ (s.pin p).raw
        ∧ level ≠ (s.pin p).filtered ∧ (s.pin p).cfg.polarity.apply level = true
        ∧ (s.pin p).cfg.function = .callPoint z ∧ ((s.zone z).state = .normal ∨ (s.zone z).state = .preAlarm))
    ∧ (∃ (p : PinId) (d : DoorId) (level : Bool) (s : State), (s.pin p).cfg.filter = 0 ∧ level ≠ (s.pin p).raw
        ∧ level ≠ (s.pin p).filtered ∧ (s.pin p).cfg.polarity.apply level = true
        ∧ s.pinOf (.doorClosedLimit d) = some p ∧ (s.door d).state = .closing
        ∧ s.inputActive (.doorOpenLimit d) = false)
    ∧ (∃ (p : PinId) (r : RampId) (level : Bool) (s : State), (s.pin p).cfg.filter = 0 ∧ level ≠ (s.pin p).raw
        ∧ level ≠ (s.pin p).filtered ∧ (s.pin p).cfg.polarity.apply level = true ∧ s.pinOf (.rampLandLimit r) = some p
        ∧ (s.ramp r).state = .lowering ∧ s.stowLimit r = false)
    ∧ (∃ (p : PinId) (z : ZoneId) (c : ChanId) (k : CountRun) (level : Bool) (s : State), (s.pin p).cfg.filter = 0
        ∧ level ≠ (s.pin p).raw ∧ level ≠ (s.pin p).filtered ∧ (s.pin p).cfg.polarity.apply level = true
        ∧ (s.pin p).cfg.function = .detector z ∧ s.chanOf (.zoneDetector z) = some c ∧ (s.channel c).run = .counting k
        ∧ (s.zone z).state = .normal ∧ 2 ≤ (s.zone z).cfg.threshold ∧ k.up = true)
    ∧ (∃ (p : PinId) (z : ZoneId) (c : ChanId) (k : CountRun) (level : Bool) (s : State), (s.pin p).cfg.filter = 0
        ∧ level ≠ (s.pin p).raw ∧ level ≠ (s.pin p).filtered ∧ (s.pin p).cfg.polarity.apply level = true
        ∧ (s.pin p).cfg.function = .detector z ∧ s.chanOf (.zoneDetector z) = some c ∧ (s.channel c).run = .counting k
        ∧ (s.zone z).state = .preAlarm ∧ k.up = true ∧ k.armed = true ∧ k.compare ≤ k.count + 1 ∧ k.count < 16777215)
    ∧ (∃ (p : PinId) (z : ZoneId) (c : ChanId) (k : CountRun) (level : Bool) (s : State), (s.pin p).cfg.filter = 0
        ∧ level ≠ (s.pin p).raw ∧ level ≠ (s.pin p).filtered ∧ (s.pin p).cfg.polarity.apply level = true
        ∧ (s.pin p).cfg.function = .detector z ∧ s.chanOf (.zoneDetector z) = some c ∧ (s.channel c).run = .counting k
        ∧ (s.zone z).state ≠ .normal ∧ k.up = true ∧ (k.armed = false ∨ k.count + 1 < k.compare) ∧ k.count < 16777215)
    ∧ (∃ (p : PinId) (d : DoorId) (level : Bool) (s : State), (s.pin p).cfg.filter = 0 ∧ level ≠ (s.pin p).raw
        ∧ level ≠ (s.pin p).filtered ∧ (s.pin p).cfg.polarity.apply level = true
        ∧ (s.pin p).cfg.function = .doorHoldButton d
        ∧ ((s.door d).state = .warning ∨ (s.door d).state = .closing ∨ (s.door d).state = .releasing
            ∧ (s.door d).timer = none) ∧ (s.door d).holdsUsed < (s.door d).cfg.maxHolds
            ∧ (s.zone (s.door d).cfg.zone).cfg.noHold = false)
    ∧ (∃ (p : PinId) (d : DoorId) (level : Bool) (s : State), (s.pin p).cfg.filter = 0 ∧ level ≠ (s.pin p).raw
        ∧ level ≠ (s.pin p).filtered ∧ (s.pin p).cfg.polarity.apply level = true
        ∧ (s.pin p).cfg.function = .doorHoldButton d ∧ (s.door d).state = .releasing ∧ (s.door d).timer.isSome = true
        ∧ (s.door d).holdRequest = false ∧ (s.door d).holdsUsed < (s.door d).cfg.maxHolds
        ∧ (s.zone (s.door d).cfg.zone).cfg.noHold = false)
    ∧ (∃ (p : PinId) (d : DoorId) (level : Bool) (s : State), (s.pin p).cfg.filter = 0 ∧ level ≠ (s.pin p).raw
        ∧ level ≠ (s.pin p).filtered ∧ (s.pin p).cfg.polarity.apply level = true
        ∧ (s.pin p).cfg.function = .doorHoldButton d
        ∧ ((s.door d).state = .warning ∨ (s.door d).state = .closing ∨ (s.door d).state = .releasing
            ∧ (s.door d).timer.isSome = true ∧ (s.door d).holdRequest = false)
            ∧ ((s.door d).cfg.maxHolds ≤ (s.door d).holdsUsed ∨ (s.zone (s.door d).cfg.zone).cfg.noHold = true))
    ∧ (∃ (p : PinId) (d : DoorId) (level : Bool) (s : State), (s.pin p).cfg.filter = 0 ∧ level ≠ (s.pin p).raw
        ∧ level ≠ (s.pin p).filtered ∧ (s.pin p).cfg.polarity.apply level = true
        ∧ (s.pin p).cfg.function = .doorHoldButton d ∧ (s.door d).state = .releasing ∧ (s.door d).timer = none
        ∧ ((s.door d).cfg.maxHolds ≤ (s.door d).holdsUsed ∨ (s.zone (s.door d).cfg.zone).cfg.noHold = true))
    ∧ (∃ (p : PinId) (d : DoorId) (level : Bool) (s : State), (s.pin p).cfg.filter = 0 ∧ level ≠ (s.pin p).raw
        ∧ level ≠ (s.pin p).filtered ∧ (s.pin p).cfg.polarity.apply level = true
        ∧ (s.pin p).cfg.function = .doorHoldButton d
        ∧ ((s.door d).state.warns = false ∧ (s.door d).state ≠ .reopening ∨ (s.door d).state = .crewHold
            ∨ (s.door d).state = .releasing ∧ (s.door d).timer.isSome = true ∧ (s.door d).holdRequest = true))
    ∧ (∃ (p : PinId) (d : DoorId) (level : Bool) (s : State), (s.pin p).cfg.filter = 0 ∧ level ≠ (s.pin p).raw
        ∧ level ≠ (s.pin p).filtered ∧ (s.pin p).cfg.polarity.apply level = true
        ∧ (s.pin p).cfg.function = .doorHoldButton d ∧ (s.door d).state = .reopening ∧ s.pinUnwatched p
        ∧ s.warningLaw)
    ∧ (∃ (p : PinId) (z : ZoneId) (level : Bool) (s : State), (s.pin p).cfg.filter = 0 ∧ level ≠ (s.pin p).raw
        ∧ level ≠ (s.pin p).filtered ∧ (s.pin p).cfg.polarity.apply level = true
        ∧ (s.pin p).cfg.function = .detector z ∧ (s.zone z).state = .preAlarm ∧ s.chanOf (.zoneDetector z) = none) :=
  ⟨⟨31, false, .reset, by decide⟩,
   ⟨31, .reset, by decide⟩,
   ⟨31, false, levels .generalIn 0, by decide⟩,
   ⟨31, false, { levels .generalIn 64 with pins := upd (levels .generalIn 64).pins 31 fun x => { x with filtered := true } }, by decide⟩,
   ⟨31, true, input .generalIn, by decide⟩,
   ⟨31, levels .generalIn 64, by decide⟩,
   ⟨31, .reset, by decide⟩,
   ⟨31, 7, true, detectorAt, by decide⟩,
   ⟨31, 7, true, pointAt, by decide⟩,
   ⟨31, 23, true, limitAt, by decide⟩,
   ⟨31, 1, true, landAt, by decide⟩,
   ⟨31, 7, 11, .fresh, true, windowAt .normal .fresh, by decide⟩,
   ⟨31, 7, 11, ⟨2, true, 3, true, 0⟩, true, windowAt .preAlarm ⟨2, true, 3, true, 0⟩, by decide⟩,
   ⟨31, 7, 11, ⟨1, true, 3, true, 0⟩, true, windowAt .preAlarm ⟨1, true, 3, true, 0⟩, by decide⟩,
   ⟨31, 23, true, buttonAt .releasing none 0, by decide⟩,
   ⟨31, 23, true, buttonAt .releasing (some 1) 0, by decide⟩,
   ⟨31, 23, true, buttonAt .closing (some 1) 1, by decide⟩,
   ⟨31, 23, true, buttonAt .releasing none 1, by decide⟩,
   ⟨31, 23, true, buttonAt .fault none 1, by decide⟩,
   ⟨31, 23, true, buttonAt .reopening none 0, by unfold pinUnwatched warningLaw; decide +kernel⟩,
   ⟨31, 7, true, smokeAt, by decide⟩⟩

/-- The premises of StallAndPwm can be met. -/
theorem test_premises_StallAndPwm :
    (∃ (c : ChanId) (r : RampId) (w : CaptureRun) (s : State), (s.channel c).run = .capturing w
        ∧ (s.channel c).cfg.binding = .rampSpeed r ∧ w.stalled = false
        ∧ ((s.ramp r).state = .lowering ∨ (s.ramp r).state = .raising))
    ∧ (∃ (c : ChanId) (r : RampId) (w : CaptureRun) (s : State), (s.channel c).run = .capturing w
        ∧ (s.channel c).cfg.binding = .rampSpeed r ∧ w.stalled = false ∧ (s.ramp r).state ≠ .lowering
        ∧ (s.ramp r).state ≠ .raising)
    ∧ (∃ (c : ChanId) (s : State), ((∀ r, (s.channel c).cfg.binding ≠ .rampSpeed r) ∨ ((match (s.channel c).run with
        | .capturing w => w.stalled
        | _ => true) = true)))
    ∧ (∃ (k : PairId) (x : PwmRun) (s : State), (s.channel (pairMaster k)).run = .pwm x)
    ∧ (∃ (k : PairId) (x : PwmRun) (s : State), (s.channel (pairMaster k)).run = .pwm x ∧ x.output = true
        ∧ x.duty < x.period)
    ∧ (∃ (k : PairId) (s : State), ((match (s.channel (pairMaster k)).run with
        | .pwm x => !x.output || decide (x.period ≤ x.duty)
        | _ => true) = true))
    ∧ (∃ (k : PairId) (s : State), ((match (s.channel (pairMaster k)).run with
        | .pwm _ => false
        | _ => true) = true))
    ∧ (∃ (p : PinId) (r : RampId) (c : ChanId) (k : CountRun) (level : Bool) (s : State), (s.pin p).cfg.filter = 0
        ∧ level ≠ (s.pin p).raw ∧ level ≠ (s.pin p).filtered ∧ (s.pin p).cfg.polarity.apply level = true
        ∧ (s.pin p).cfg.function = .rampEncoder r ∧ s.chanOf (.rampEncoder r) = some c
        ∧ (s.channel c).run = .counting k)
    ∧ (∃ (p : PinId) (r : RampId) (c e : ChanId) (k : CountRun) (x : PwmRun) (level : Bool) (s : State), (s.pin p).cfg.filter = 0 ∧ level ≠ (s.pin p).raw ∧ level ≠ (s.pin p).filtered ∧ (s.pin p).cfg.polarity.apply level = true ∧ (s.pin p).cfg.function = .rampEncoder r ∧ s.chanOf (.rampEncoder r) = some c ∧ (s.channel c).run = .counting k ∧ ((s.ramp r).state = .lowering ∨ (s.ramp r).state = .raising) ∧ k.armed = true ∧ (k.up = true ∧ k.compare ≤ k.count + 1 ∧ k.count < 65535 ∨ k.up = false ∧ k.count ≤ k.compare + 1) ∧ (∀ d w, s.chanOf (.rampSpeed r) = some d → (s.channel d).run = .capturing w → w.edgeSeen = false ∨ w.minInterval ≤ w.count)
        ∧ s.pinUnwatched p ∧ s.chanOf (.rampValve r) = some e ∧ (s.channel e).run = .pwm x
        ∧ s.rampReady r = true ∧ (s.chanOf (.rampSpeed r)).isSome = true)
    ∧ (∃ (p : PinId) (r : RampId) (c : ChanId) (w : CaptureRun) (level : Bool) (s : State), (s.pin p).cfg.filter = 0
        ∧ level ≠ (s.pin p).raw ∧ level ≠ (s.pin p).filtered ∧ (s.pin p).cfg.polarity.apply level = true
        ∧ (s.pin p).cfg.function = .rampEncoder r ∧ ((s.ramp r).state = .lowering ∨ (s.ramp r).state = .raising)
        ∧ s.chanOf (.rampSpeed r) = some c ∧ (s.channel c).run = .capturing w ∧ w.edgeSeen = true
        ∧ w.count < w.minInterval)
    ∧ (∃ (p : PinId) (r : RampId) (c : ChanId) (w : CaptureRun) (level : Bool) (s : State), (s.pin p).cfg.filter = 0
        ∧ level ≠ (s.pin p).raw ∧ level ≠ (s.pin p).filtered ∧ (s.pin p).cfg.polarity.apply level = true
        ∧ (s.pin p).cfg.function = .rampEncoder r ∧ ((s.ramp r).state = .lowering ∨ (s.ramp r).state = .raising)
        ∧ s.chanOf (.rampSpeed r) = some c ∧ (s.channel c).run = .capturing w
        ∧ (w.edgeSeen = false ∨ w.minInterval ≤ w.count) ∧ s.pinUnwatched p)
    ∧ (∃ (p : PinId) (r : RampId) (c : ChanId) (k : CountRun) (level : Bool) (s : State), (s.pin p).cfg.filter = 0
        ∧ level ≠ (s.pin p).raw ∧ level ≠ (s.pin p).filtered ∧ (s.pin p).cfg.polarity.apply level = true
        ∧ (s.pin p).cfg.function = .rampStowLimit r ∧ s.chanOf (.rampEncoder r) = some c
        ∧ (s.channel c).run = .counting k) :=
  ⟨⟨11, 1, ⟨0, 0, 200, 1, false, false⟩, capturing .raising, by decide⟩,
   ⟨11, 1, ⟨0, 0, 200, 1, false, false⟩, capturing .held, by decide⟩,
   ⟨11, .reset, by decide⟩,
   ⟨5, ⟨0, 0, 9, 8, none, none, true⟩, running, by decide⟩,
   ⟨5, ⟨0, 0, 9, 8, none, none, true⟩, running, by decide⟩,
   ⟨5, .reset, by decide⟩,
   ⟨5, .reset, by decide⟩,
   ⟨31, 1, 11, ⟨65535, true, 0, false, 0⟩, true, counter (.rampEncoder 1) ⟨65535, true, 0, false, 0⟩ (input (.rampEncoder 1)), by decide⟩,
   ⟨3, 1, 2, 0, ⟨1, false, 0, true, 0⟩, ⟨0, 0, 9, 8, none, none, true⟩, true, slowing, by decide, by decide, by decide,
    by decide, by decide, by decide, by decide, by decide, by decide, by decide, fun d w hd hw => by
      cases (by decide : slowing.chanOf (.rampSpeed 1) = some 3).symm.trans hd
      cases (by decide : (slowing.channel 3).run = .capturing ⟨200, 0, 200, 1, true, false⟩).symm.trans hw
      exact .inr (by decide), by unfold pinUnwatched; decide, by decide, by decide, by decide +kernel, by decide⟩,
   ⟨31, 1, 11, ⟨199, 0, 200, 1, true, false⟩, true, speeding ⟨199, 0, 200, 1, true, false⟩, by decide⟩,
   ⟨31, 1, 11, ⟨200, 0, 200, 1, true, false⟩, true, speeding ⟨200, 0, 200, 1, true, false⟩, by unfold pinUnwatched; decide⟩,
   ⟨31, 1, 11, ⟨1, true, 0, true, 0⟩, true, counter (.rampEncoder 1) ⟨1, true, 0, true, 0⟩ (input (.rampStowLimit 1)), by decide⟩⟩

/-- The premises of GrantsAndValves can be met. -/
theorem test_premises_GrantsAndValves :
    (∃ (h : Claim) (p : PinId) (s : State), s.account.pending = [h] ∧ h.claimant = pinClaimant p
        ∧ (s.pin p).cfg.function = .generalOut ∧ unitsOf s.account.granted + h.units ≤ s.unit.junction.loadBudget)
    ∧ (∃ (s : State), s.account.pending = [])
    ∧ (∃ (h : Claim) (l : List Claim) (s : State), s.account.pending = h :: l
        ∧ s.unit.junction.loadBudget < unitsOf s.account.granted + h.units ∧ (h.cls = .hold ∨ h.cls = .service))
    ∧ (∃ (r : RampId) (p q : PinId) (s : State), (s.pin p).cfg.function = .rampLowerValve r
        ∧ (s.pin q).cfg.function = .rampRaiseValve r)
    ∧ (∃ (r : RampId) (p : PinId) (s : State), (s.pin p).cfg.function = .rampLock r
        ∧ s.account.isPending (driveClaimant r) = true)
    ∧ (∃ (h : Claim) (l : List Claim) (s : State), s.account.pending = h :: l
        ∧ s.unit.junction.loadBudget < unitsOf s.account.granted + h.units ∧ (h.cls = .fire ∨ h.cls = .motion)
        ∧ (∀ c ∈ s.account.granted, s.canShed c = false))
    ∧ (∃ (h c : Claim) (l : List Claim) (p q : PinId) (s : State), s.account.pending = [h]
        ∧ h.claimant = pinClaimant p
        ∧ ((∃ z, (s.pin p).cfg.function = .zoneBeacon z) ∨ (∃ r, (s.pin p).cfg.function = .rampBeacon r))
        ∧ (h.cls = .fire ∨ h.cls = .motion) ∧ h.shed = false ∧ s.account.granted = l ++ [c]
        ∧ c.claimant = pinClaimant q ∧ c.cls = .service
        ∧ ((s.pin q).cfg.function = .generalOut ∧ (s.pin q).cfg.sheddable = true
            ∨ (∃ z, (s.pin q).cfg.function = .chime z)) ∧ (∀ d ∈ l, d.claimant ≠ c.claimant ∧ d.age < c.age)
                ∧ s.unit.junction.loadBudget < unitsOf l + c.units + h.units
                ∧ unitsOf l + h.units ≤ s.unit.junction.loadBudget)
    ∧ (∃ (p : PinId) (s : State), (s.pin p).cfg.function.isOutput = false)
    ∧ (∃ (p : PinId) (s : State), (s.pin p).cfg.function.claims = true ∧ s.standing (pinClaimant p) ≠ .granted)
    ∧ (∃ (p : PinId) (s : State), (s.pin p).cfg.function.claims = true ∧ s.standing (pinClaimant p) = .granted)
    ∧ (∃ (p : PinId) (r : RampId) (s : State), ((s.pin p).cfg.function = .rampLowerValve r
        ∧ (s.ramp r).state = .lowering
        ∨ (s.pin p).cfg.function = .rampRaiseValve r ∧ (s.ramp r).state = .raising)
            ∧ s.account.isGranted (driveClaimant r) = true)
    ∧ (∃ (p : PinId) (r : RampId) (s : State), (s.pin p).cfg.function = .rampLock r
        ∧ s.account.isPending (driveClaimant r) = false)
    ∧ (∃ (p : PinId) (s : State), (s.pin p).cfg.function.isOutput = true)
    ∧ (∃ (b : Binding) (c : ChanId) (x : PwmRun) (s : State), s.chanOf b = some c ∧ (s.channel c).run = .pwm x) :=
  ⟨⟨⟨31, .service, 40, 0, false⟩, 31, waits 40, by decide⟩,
   ⟨.reset, by decide⟩,
   ⟨⟨31, .service, 41, 0, false⟩, [], waits 41, by decide⟩,
   ⟨1, 0, 31, valves, by decide⟩,
   ⟨1, 31, lockWaits, by decide⟩,
   ⟨⟨0, .fire, 41, 0, false⟩, [], fireWaits, by decide⟩,
   ⟨⟨0, .fire, 40, 1, false⟩, ⟨31, .service, 1, 0, false⟩, [], 0, 31, sheds, by decide⟩,
   ⟨31, .reset, by decide⟩,
   ⟨31, outputAt .on, by decide⟩,
   ⟨0, loaded, by decide⟩,
   ⟨31, 1, driving, by decide⟩,
   ⟨31, 1, input (.rampLock 1), by decide⟩,
   ⟨31, outputAt .on, by decide⟩,
   ⟨.flash2, 10, ⟨0, 0, 9, 8, none, none, true⟩, flashing, by decide⟩⟩

/-- The premises of EventLawKept can be met. -/
theorem test_premises_EventLawKept :
    ∃ (s t : State), s.eventLaw ∧ step s = .next t :=
  ⟨overflowed.withPending [.silenceTimerExpiry], _, by unfold eventLaw; decide +kernel, rfl⟩

/-- The premises of LoadLawKept can be met. -/
theorem test_premises_LoadLawKept :
    ∃ (s t : State), s.loadLaw ∧ step s = .next t :=
  ⟨loaded.withPending [.silenceTimerExpiry], _, by unfold loadLaw; decide +kernel, rfl⟩

/-- The premises of ClaimLawKept can be met. -/
theorem test_premises_ClaimLawKept :
    ∃ (s t : State), s.claimLaw ∧ step s = .next t :=
  ⟨loaded.withPending [.silenceTimerExpiry], _, by unfold claimLaw; decide +kernel, rfl⟩

/-- The premises of PinAndBindingLawsKept can be met. -/
theorem test_premises_PinAndBindingLawsKept :
    ∃ (s t : State), s.pinLaw ∧ s.bindingLaw ∧ step s = .next t :=
  ⟨(pinned (.rampEncoder 1)).withPending [.silenceTimerExpiry], _, by unfold pinLaw; decide +kernel, by unfold bindingLaw; decide +kernel, rfl⟩

/-- The premises of RouteLawKept can be met. -/
theorem test_premises_RouteLawKept :
    ∃ (s t : State), s.routeLaw ∧ step s = .next t :=
  ⟨routed.withPending [.silenceTimerExpiry], _, routeLawRouted, rfl⟩

/-- The premises of ModeAndZoneLawsKept can be met. -/
theorem test_premises_ModeAndZoneLawsKept :
    ∃ (s t : State), s.modeLaw ∧ s.zoneLaw ∧ step s = .next t :=
  ⟨inLocal.withPending [.silenceTimerExpiry], _, by unfold modeLaw; decide +kernel, by unfold zoneLaw; decide +kernel, rfl⟩

/-- The premises of BranchAndPresenceLawsKept can be met. -/
theorem test_premises_BranchAndPresenceLawsKept :
    ∃ (s t : State), s.branchLaw ∧ s.presenceLaw ∧ step s = .next t :=
  ⟨(inBurst true none).withPending [.silenceTimerExpiry], _, by unfold branchLaw; decide +kernel, by unfold presenceLaw; decide +kernel, rfl⟩

/-- The premises of RampLawKept can be met. -/
theorem test_premises_RampLawKept :
    ∃ (s t : State), s.rampLaw ∧ step s = .next t :=
  ⟨(rampIn .raising).withPending [.silenceTimerExpiry], _, by unfold rampLaw; decide +kernel, rfl⟩

/-- The premises of DoorLawKept can be met. -/
theorem test_premises_DoorLawKept :
    ∃ (s t : State), s.doorLaw ∧ s.warningLaw ∧ step s = .next t :=
  ⟨(doorIn .ajar .latch).withPending [.silenceTimerExpiry], _, by unfold doorLaw; decide +kernel, by unfold warningLaw; decide +kernel, rfl⟩

/-- The premises of CallLawKept can be met. -/
theorem test_premises_CallLawKept :
    ∃ (s t : State), s.callLaw ∧ s.replyFits ∧ s.tables.inRange = true ∧ step s = .next t :=
  ⟨(presents .clip).withPending [.silenceTimerExpiry], _, callLawPresents, by unfold replyFits; decide, by decide +kernel, rfl⟩

/-- The premises of RampTimerLawKept can be met. -/
theorem test_premises_RampTimerLawKept :
    ∃ (s t : State), s.rampTimerLaw ∧ step s = .next t :=
  ⟨movingRamp.withPending [.silenceTimerExpiry], _, by unfold rampTimerLaw; decide +kernel, rfl⟩

/-- The premises of DoorTimerLawKept can be met. -/
theorem test_premises_DoorTimerLawKept :
    ∃ (s t : State), s.doorTimerLaw ∧ s.holdLaw ∧ s.pinLaw ∧ s.tables.inRange = true ∧ step s = .next t :=
  ⟨(doorIn .warning .magnet).withPending [.silenceTimerExpiry], _, by unfold doorTimerLaw; decide +kernel, by unfold holdLaw; decide +kernel, by unfold pinLaw; decide +kernel, by decide +kernel, rfl⟩

/-- The premises of RangesKept can be met. -/
theorem test_premises_RangesKept :
    ∃ (s t : State), s.tables.inRange = true ∧ step s = .next t :=
  ⟨(doorIn .warning .latch).withPending [.silenceTimerExpiry], _, by decide +kernel, rfl⟩

/-- The premises of LockFreezes can be met. -/
theorem test_premises_LockFreezes :
    (∃ (x : PinCfg) (s : State), s.active = true ∧ s.unit.lock = true ∧ x.inRange = true)
    ∧ (∃ (x : ChannelCfg) (s : State), s.active = true ∧ s.unit.lock = true ∧ x.inRange = true)
    ∧ (∃ (x : BranchCfg) (s : State), s.active = true ∧ s.unit.lock = true ∧ x.inRange = true)
    ∧ (∃ (x : PositionCfg) (s : State), s.active = true ∧ s.unit.lock = true ∧ x.inRange = true)
    ∧ (∃ (s t : State), s.unit.lock = true ∧ (∀ c ∈ s.pending.head?.toList, ∀ a, c ≠ .hardReset a)
        ∧ step s = .next t) :=
  ⟨⟨.reset, locked, by decide⟩,
   ⟨.reset, locked, by decide⟩,
   ⟨Branch.reset.cfg, locked, by decide⟩,
   ⟨Position.reset.cfg, locked, by decide⟩,
   ⟨locked.withPending [.silenceTimerExpiry], _, rfl, by simp [withPending], rfl⟩⟩

/-- The premises of ReplyTakesEvents can be met. -/
theorem test_premises_ReplyTakesEvents :
    (∃ (k : Parts), k.events = true)
    ∧ (∃ (k : Parts), k.events = false)
    ∧ (∃ (s : State), s.unit.overflow = true) :=
  ⟨⟨⟨true, false, false⟩, by decide⟩,
   ⟨⟨false, true, true⟩, by decide⟩,
   ⟨overflowed, by decide⟩⟩

/-- The premises of ActionsPermitted can be met. -/
theorem test_premises_ActionsPermitted :
    (∃ (a : PermitAction) (s : State), (∀ k, (s.permit k).used = true → (s.permit k).action ≠ a))
    ∧ (∃ (a : PermitAction) (k : PermitId) (s : State), s.guards k a) :=
  ⟨⟨.zoneClear 7, .reset, by decide⟩,
   ⟨.doorReopen 23, 15, permitted, by unfold guards; decide⟩⟩

/-- The premises of PermitsAtResets can be met. -/
theorem test_premises_PermitsAtResets :
    ∃ (s t : State), s.active = false ∧ (∀ k, s.permit k = ⟨false, .rampLower 0, [.cleared]⟩) ∧ step s = .next t :=
  ⟨passive.withPending [.loadGrant], _, by decide, by decide, rfl⟩

/-- The premises of SlotAndMotionWords can be met. -/
theorem test_premises_SlotAndMotionWords :
    (∃ (i : SlotId) (s : State), s.active = true ∧ (s.slot i).entry.names = none)
    ∧ (∃ (i : SlotId) (n : PosId) (s : State), s.active = true ∧ (s.slot i).entry.names = some n)
    ∧ (∃ (w : Word) (r : RampId) (s : State), s.active = true ∧ w.getLsbD 15 = (s.ramp r).lastToggle)
    ∧ (∃ (w : Word) (r : RampId) (s : State), s.active = true ∧ w.getLsbD 15 ≠ (s.ramp r).lastToggle
        ∧ ((s.ramp r).state = .disabled ∨ (s.ramp r).state = .fault ∨ (readMotion w).direction = none
            ∧ ((s.ramp r).state = .stowed ∨ (s.ramp r).state = .landed ∨ (s.ramp r).state = .held)))
    ∧ (∃ (w : Word) (r : RampId) (dir : Direction) (s : State), s.active = true ∧ w.getLsbD 15 ≠ (s.ramp r).lastToggle
        ∧ (readMotion w).direction = some dir
        ∧ ((s.ramp r).state = .stowed ∧ dir = .raise ∨ (s.ramp r).state = .landed ∧ dir = .lower))
    ∧ (∃ (w : Word) (r : RampId) (dir : Direction) (why : RampReason) (s : State), s.active = true
        ∧ w.getLsbD 15 ≠ (s.ramp r).lastToggle ∧ (readMotion w).direction = some dir
        ∧ ((s.ramp r).state = .held ∨ (s.ramp r).state = .stowed ∧ dir = .lower ∨ (s.ramp r).state = .landed
            ∧ dir = .raise) ∧ s.startRefusal r dir = some why)
    ∧ (∃ (w : Word) (r : RampId) (dir : Direction) (s : State), s.active = true ∧ w.getLsbD 15 ≠ (s.ramp r).lastToggle
        ∧ (readMotion w).direction = some dir
        ∧ ((s.ramp r).state = .held ∨ (s.ramp r).state = .stowed ∧ dir = .lower ∨ (s.ramp r).state = .landed
            ∧ dir = .raise) ∧ s.startRefusal r dir = none ∧ s.standing (driveClaimant r) = .none)
    ∧ (∃ (w : Word) (r : RampId) (s : State), s.active = true ∧ w.getLsbD 15 ≠ (s.ramp r).lastToggle
        ∧ (s.ramp r).state.isActive = true ∧ (readMotion w).direction = some (s.ramp r).direction)
    ∧ (∃ (w : Word) (r : RampId) (s : State), s.active = true ∧ w.getLsbD 15 ≠ (s.ramp r).lastToggle
        ∧ (s.ramp r).state.isActive = true ∧ (readMotion w).direction ≠ some (s.ramp r).direction) :=
  ⟨⟨63, .reset, by decide⟩,
   ⟨0, 48, routedLast, by decide⟩,
   ⟨1, 1, .reset, by decide⟩,
   ⟨0x8000, 1, rampIn .stowed, by decide⟩,
   ⟨0x8002, 1, .raise, rampIn .stowed, by decide⟩,
   ⟨0x8001, 1, .lower, .limit, landedRamp, by decide⟩,
   ⟨0x8001, 1, .lower, rampIn .held, by decide⟩,
   ⟨0x8002, 1, rampIn .raising, by decide⟩,
   ⟨0x8000, 1, rampIn .raising, by decide⟩⟩

end Sys2Proof.Tests
end

section
/-! The event queue at the build of a reply segment (R37): what posting, draining, a build and hard reset do to the Request
Unit, and obligation O56 put together from these rules. -/

namespace Sys2Proof.Machine

namespace State

variable (s : State)

/-! ### Posting, draining and hard reset -/

/-- A post sets the flag with the queue full and never clears it (R36). -/
theorem post_overflow (kind : EventKind) (subject : Nat) (detail : Word) :
    (s.post kind subject detail).unit.overflow = (s.unit.overflow || decide (eventLimit ≤ s.unit.events.length)) := by
  unfold post
  rw [modUnit_unit]
  split
  next room => rw [decide_eq_false (Nat.not_le_of_lt room), Bool.or_false]
  next full => rw [decide_eq_true (Nat.le_of_not_lt full), Bool.or_true]

@[simp] theorem drainEvents_events (n : Nat) : (s.drainEvents n).unit.events = s.unit.events.drop n := rfl

/-- The flag clears exactly when the drain takes all that the queue holds. -/
theorem drainEvents_overflow (n : Nat) :
    (s.drainEvents n).unit.overflow = if s.unit.events.length ≤ n then false else s.unit.overflow := by
  unfold drainEvents
  simp only [modUnit_unit, List.isEmpty_iff, List.drop_eq_nil_iff]

@[simp] theorem hardReset_unit (straps : BitVec 5) : (s.hardReset straps).unit = State.reset.unit := by
  unfold hardReset
  dsimp only
  split <;> rfl

/-! ### The build of a reply segment -/

/-- Reporting reply items touches slots alone. -/
@[simp] theorem foldl_reportItem_unit (items : List ReplyItem) : (items.foldl reportItem s).unit = s.unit := by
  induction items generalizing s with
  | nil => rfl
  | cons x xs ih => exact ih (s.reportItem x)

/-- The Request Unit after a build: drained if the event list is kept, its reply handed over if that is kept. -/
theorem afterBuild_unit (k : Parts) :
    (s.afterBuild k).unit =
      { (if k.events then s.drainEvents drainLimit else s).unit with
        reply := if k.reply then none else s.unit.reply } := by
  have hreply : (if k.events then s.drainEvents drainLimit else s).unit.reply = s.unit.reply := by split <;> rfl
  rw [← hreply]
  unfold afterBuild
  dsimp only
  split
  · simp only [modUnit_unit, foldl_reportItem_unit]
  · rw [foldl_reportItem_unit]

/-- A build with the event list drains the queue. -/
theorem afterBuild_queue_of_events {k : Parts} (h : k.events = true) :
    (s.afterBuild k).unit.events = (s.drainEvents drainLimit).unit.events
    ∧ (s.afterBuild k).unit.overflow = (s.drainEvents drainLimit).unit.overflow := by
  rw [afterBuild_unit, if_pos h]
  exact ⟨rfl, rfl⟩

/-- A build without the event list leaves queue and flag. -/
theorem afterBuild_queue_of_no_events {k : Parts} (h : k.events = false) :
    (s.afterBuild k).unit.events = s.unit.events ∧ (s.afterBuild k).unit.overflow = s.unit.overflow := by
  rw [afterBuild_unit, if_neg (ne_true_of_eq_false h)]
  exact ⟨rfl, rfl⟩

theorem replyEvents_of_events {k : Parts} (h : k.events = true) : s.replyEvents k = s.unit.events.take drainLimit :=
  if_pos h

theorem replyEvents_of_no_events {k : Parts} (h : k.events = false) : s.replyEvents k = [] :=
  if_neg (ne_true_of_eq_false h)

/-- The body of a reply segment begins with the status record of the state after the build (R12). -/
theorem head?_replyBody (k : Parts) : (s.replyBody k).head? = some (s.afterBuild k).statusRecord := rfl

end State

open State

/-- Settles O56, from the rules for a drain, a build, a post and hard reset. -/
theorem replyTakesEvents : Obligations.ReplyTakesEvents := by
  unfold Obligations.ReplyTakesEvents
  refine ⟨fun k s h => ?taken, fun k s h => ?kept, fun k s => s.head?_replyBody k,
    fun kind subject detail s h => ?posted, fun straps s => ?reset⟩
  case taken =>
    obtain ⟨hevents, hoverflow⟩ := s.afterBuild_queue_of_events h
    exact ⟨s.replyEvents_of_events h, hevents.trans (s.drainEvents_events 4),
      hoverflow.trans (s.drainEvents_overflow 4)⟩
  case kept => exact ⟨s.replyEvents_of_no_events h, s.afterBuild_queue_of_no_events h⟩
  case posted => rw [post_overflow, h, Bool.true_or]
  case reset =>
    refine ⟨s.hardReset straps, rfl, ?_, ?_⟩
    all_goals
      rw [hardReset_unit]
      rfl

end Sys2Proof.Machine
end

section
/-! The Permit Table: when an action is permitted and when a condition holds (R174, R175), and what resets, RESTART and
a passive part do to the entries (R180); obligations O57 and O58 put together from these rules. -/

namespace Sys2Proof.Machine

namespace State

variable (s : State)

theorem permit_eq_of_permits_eq {s t : State} (h : t.permits = s.permits) (k : PermitId) : t.permit k = s.permit k := by
  unfold permit
  rw [h]

/-! ### The entry that guards an action -/

theorem guardOf_eq_none_iff (a : PermitAction) :
    s.guardOf a = none ↔ ∀ k, (s.permit k).used = true → (s.permit k).action ≠ a := by
  simp [guardOf, each]

theorem used_and_action_of_guardOf {a : PermitAction} {k : PermitId} (h : s.guardOf a = some k) :
    (s.permit k).used = true ∧ (s.permit k).action = a := by
  simpa using List.find?_some h

theorem guardOf_of_guards {a : PermitAction} {k : PermitId} (h : s.guards k a) : s.guardOf a = some k := by
  obtain ⟨hused, haction, honly⟩ := h
  cases hg : s.guardOf a with
  | none => exact absurd haction ((s.guardOf_eq_none_iff a).mp hg k hused)
  | some j =>
    obtain ⟨hj, ha⟩ := s.used_and_action_of_guardOf hg
    by_cases hjk : j = k
    · rw [hjk]
    · exact absurd ha (honly j hjk hj)

/-! ### Permission -/

theorem satisfied_iff (k : PermitId) : s.satisfied k = true ↔ ∀ c ∈ (s.permit k).conditions, s.holds c = true :=
  List.all_eq_true

theorem forbids_of_guardOf_none {a : PermitAction} (h : s.guardOf a = none) : s.forbids a = none := by
  unfold forbids
  rw [h]

theorem forbids_of_guardOf_some {a : PermitAction} {k : PermitId} (h : s.guardOf a = some k) :
    s.forbids a = if s.satisfied k then none else some k := by
  unfold forbids
  rw [h]

/-- With no entry in use every action is permitted. -/
theorem forbids_of_unused (h : ∀ k, (s.permit k).used = false) (a : PermitAction) : s.forbids a = none :=
  s.forbids_of_guardOf_none ((s.guardOf_eq_none_iff a).mpr fun k hk => absurd hk (ne_true_of_eq_false (h k)))

/-! ### Conditions -/

/-- An input exists at a PRESENT position with a last reply: inputs 0 to 15 of a GENERAL one, 0 to 7 of a SENSOR one. -/
theorem nodeInput_eq_some_iff (n : PosId) (k : Fin 16) (a : Bool) :
    s.nodeInput n k = some a ↔ (s.position n).presence = .present
      ∧ ((s.position n).cfg.cls = .general ∨ (s.position n).cfg.cls = .sensor ∧ k.val < 8)
      ∧ (s.position n).lastReply.map (fun w => w.getLsbD k.val) = some a := by
  unfold nodeInput
  by_cases hp : (s.position n).presence = .present
  · cases (s.position n).lastReply <;> cases (s.position n).cfg.cls <;> simp [hp]
  · simp [hp]

/-- The pin's function is asked for twice: by the condition and by the pin's active state. -/
theorem holds_pin_iff (p : PinId) (a : Bool) :
    s.holds (.pin p a) = true ↔
      (s.pin p).cfg.function.isInput = true ∧ (s.pin p).cfg.polarity.apply (s.pin p).filtered = a := by
  cases hin : (s.pin p).cfg.function.isInput <;> simp [holds, Pin.active, hin]

theorem holds_node_iff (n : PosId) (k : Fin 16) (a : Bool) :
    s.holds (.node n k a) = true ↔ s.nodeInput n k = some a :=
  beq_iff_eq

/-! ### Hard reset -/

@[simp] theorem hardReset_permits (straps : BitVec 5) : (s.hardReset straps).permits = State.reset.permits := by
  unfold hardReset
  dsimp only
  split <;> rfl

theorem hardReset_permit (straps : BitVec 5) (k : PermitId) : (s.hardReset straps).permit k = .reset := by
  unfold permit
  simp only [hardReset_permits, reset, Vector.getElem_replicate]

/-! ### A passive part -/

/-- A passive part executes no request (log entry 7). -/
theorem execute_of_passive {s : State} (h : s.active = false) (src : Source) (o t : Byte) (f : State → Answered) :
    s.execute src o t f = s :=
  if_neg (ne_true_of_eq_false h)

@[simp] theorem emit_permits (ws : List Word) : (s.emit ws).permits = s.permits := rfl

/-- A passive part passes every frame on (R5). -/
theorem takeFrame_of_passive {s : State} (h : s.active = false) (ws : List Word) : s.takeFrame ws = s.emit ws := by
  unfold takeFrame
  rw [h]
  rfl

end State

/-! ### Operations that leave the Permit Table -/

namespace Eff

variable {s t : State}

/-- The parts other than the permit entries. -/
def sparesPermits (p : Part) : Prop := ∀ k, p ≠ .permitCfg k

theorem permits_of_spares (h : Eff sparesPermits s t) : t.permits = s.permits :=
  h.permits_eq fun k hk => hk k rfl

/-- No unit's operation and no restart touches a permit entry. -/
theorem restartK_spares (p : Part) (h : restartK p) : sparesPermits p := by
  rintro k rfl
  simp [restartK, unitK, zoneK, doorK, warnK, callK, reactK, rampK, chainK, burstK] at h

theorem unitK_spares (p : Part) (h : unitK p) : sparesPermits p := restartK_spares p (.inl h)

theorem chainK_spares (b : BranchId) (p : Part) (h : chainK b p) : sparesPermits p :=
  restartK_spares p (.inr (.inl ⟨b, h⟩))

theorem burstK_spares (b : BranchId) (p : Part) (h : burstK b p) : sparesPermits p :=
  chainK_spares b p (.inr (.inl h))

theorem reactK_spares (p : Part) (h : reactK p) : sparesPermits p := unitK_react unitK_spares p h

theorem callK_spares (p : Part) (h : callK p) : sparesPermits p := zoneK_call (unitK_zone unitK_spares 0) p h

theorem doorK_spares (d : DoorId) (p : Part) (h : doorK d p) : sparesPermits p := unitK_door unitK_spares d p h

theorem rampK_spares (r : RampId) (p : Part) (h : rampK r p) : sparesPermits p := unitK_ramp unitK_spares r p h

theorem silenceExpired_spares (s : State) : Eff sparesPermits s s.silenceExpired := by
  unfold State.silenceExpired
  split
  · exact trunkRamps reactK_spares (post nofun _ _ _ (modTrunk nofun _ .refl))
  · exact .refl

theorem localCycleExpired_spares (s : State) : Eff sparesPermits s s.localCycleExpired := by
  unfold State.localCycleExpired
  split
  · exact triggerAll burstK_spares (modTrunk nofun _ .refl)
  · exact .refl

end Eff

open State

/-- RESTART rewrites no permit entry (R180). -/
theorem exec_restart_permits (src : Source) (tag : Byte) (p : List Word) (s : State) :
    ∃ t, exec (.restart src tag p) s = .next t ∧ t.permits = s.permits :=
  have h : Eff Eff.sparesPermits s _ :=
    .execute nofun src Opcode.restart.code tag (.restartRequest nofun Eff.restartK_spares p .refl) .refl
  ⟨_, rfl, h.permits_of_spares⟩

/-- In a passive part requests and frames do nothing to the Permit Table, and no event touches it. -/
theorem exec_permits_of_passive {s : State} (hs : s.active = false) (c : Instr) (hc : ∀ x, c ≠ .hardReset x) :
    ∃ t, exec c s = .next t ∧ t.permits = s.permits := by
  have ev {t : State} (h : Eff Eff.sparesPermits s t) : t.permits = s.permits := h.permits_of_spares
  cases c with
  | hardReset x => exact absurd rfl (hc x)
  | frameArrival ws => exact ⟨_, rfl, by rw [takeFrame_of_passive hs, emit_permits]⟩
  | silenceTimerExpiry => exact ⟨_, rfl, ev (Eff.silenceExpired_spares s)⟩
  | localCycleTimerExpiry => exact ⟨_, rfl, ev (Eff.localCycleExpired_spares s)⟩
  | burstEnd b x => exact ⟨_, rfl, ev (Eff.endBurst (Eff.chainK_spares b) x .refl)⟩
  | returnLineContention b => exact ⟨_, rfl, ev (Eff.contend (Eff.chainK_spares b) .refl)⟩
  | rawInputChange p l => exact ⟨_, rfl, ev (Eff.rawChange Eff.unitK_spares nofun l .refl)⟩
  | inputFilterExpiry p => exact ⟨_, rfl, ev (Eff.filterExpired Eff.unitK_spares nofun .refl)⟩
  | stallCountReached c => exact ⟨_, rfl, ev (Eff.stallReached Eff.unitK_spares c .refl)⟩
  | pwmPeriodStart k => exact ⟨_, rfl, ev (Eff.pairPeriod Eff.reactK_spares k .refl)⟩
  | pwmDutyEnd k => exact ⟨_, rfl, ev (Eff.pairDutyEnd Eff.reactK_spares k .refl)⟩
  | chimeOnExpiry => exact ⟨_, rfl, ev (Eff.burstOver Eff.callK_spares .refl)⟩
  | chimeOffExpiry => exact ⟨_, rfl, ev (Eff.pauseOver Eff.callK_spares .refl)⟩
  | loadGrant => exact ⟨_, rfl, ev (Eff.tell Eff.signal Eff.reactK_spares (Eff.settle Eff.reactK_spares .refl))⟩
  | windowTimerExpiry z => exact ⟨_, rfl, ev (Eff.windowExpired (Eff.unitK_zone Eff.unitK_spares z) .refl)⟩
  | magnetWarningExpiry d => exact ⟨_, rfl, ev (Eff.warningExpired (Eff.doorK_spares d) .magnet .refl)⟩
  | latchWarningExpiry d => exact ⟨_, rfl, ev (Eff.warningExpired (Eff.doorK_spares d) .latch .refl)⟩
  | releasePulseExpiry d => exact ⟨_, rfl, ev (Eff.pulseExpired (Eff.doorK_spares d) .refl)⟩
  | travelTimerExpiry d => exact ⟨_, rfl, ev (Eff.travelExpired (Eff.doorK_spares d) .refl)⟩
  | crewHoldExpiry d => exact ⟨_, rfl, ev (Eff.holdExpired (Eff.doorK_spares d) .refl)⟩
  | reopenTimerExpiry d => exact ⟨_, rfl, ev (Eff.reopenExpired (Eff.doorK_spares d) .refl)⟩
  | runGraceExpiry r => exact ⟨_, rfl, ev (Eff.graceExpired (Eff.rampK_spares r) .refl)⟩
  | unlockTimerExpiry r => exact ⟨_, rfl, ev (Eff.unlockExpired (Eff.rampK_spares r) .refl)⟩
  | lockTimerExpiry r => exact ⟨_, rfl, ev (Eff.lockExpired (Eff.rampK_spares r) .refl)⟩
  | holdTimerExpiry z => exact ⟨_, rfl, ev (Eff.presentationHeld Eff.callK_spares z .refl)⟩
  | clipTimerExpiry z => exact ⟨_, rfl, ev (Eff.clipExpired Eff.callK_spares z .refl)⟩
  | gapTimerExpiry t z => exact ⟨_, rfl, ev (Eff.gapExpired Eff.callK_spares t z .refl)⟩
  | _ => exact ⟨_, rfl, congrArg State.permits (execute_of_passive hs _ _ _ _)⟩

/-- A step of a passive part keeps the Permit Table, but where it is a hard reset, which empties it. -/
theorem step_permits_of_passive {s t : State} (hs : s.active = false) (h : step s = .next t) :
    t.permits = s.permits ∨ ∀ k, t.permit k = .reset := by
  unfold step at h
  split at h
  case h_2 =>
    cases h
    exact .inl rfl
  case h_1 c rest _ =>
    by_cases hc : ∃ x, c = .hardReset x
    · obtain ⟨x, rfl⟩ := hc
      cases h
      exact .inr (hardReset_permit _ x)
    · obtain ⟨u, hu, hp⟩ := exec_permits_of_passive (s := s.withPending rest) hs c (not_exists.mp hc)
      cases hu.symm.trans h
      exact .inl hp

/-- Settles O57, from the rules for the guarding entry, for permission and for each kind of condition. -/
theorem actionsPermitted : Obligations.ActionsPermitted := by
  unfold Obligations.ActionsPermitted
  refine ⟨fun a s h => ?unguarded, fun a k s h => ?guarded,
    fun s => ⟨rfl, fun _ _ => .rfl, fun _ _ => .rfl, fun _ _ => .rfl, s.holds_pin_iff, fun n k a => ?node⟩⟩
  case unguarded => exact s.forbids_of_guardOf_none ((s.guardOf_eq_none_iff a).mpr h)
  case guarded =>
    rw [s.forbids_of_guardOf_some (s.guardOf_of_guards h)]
    simp only [satisfied_iff]
  case node => exact (s.holds_node_iff n k a).trans (s.nodeInput_eq_some_iff n k a)

/-- Settles O58, from the rules for hard reset, for the steps of a passive part and for RESTART. -/
theorem permitsAtResets : Obligations.PermitsAtResets := by
  unfold Obligations.PermitsAtResets
  refine ⟨fun straps s => ?reset, fun s t hs hempty h k => ?passive, exec_restart_permits⟩
  case reset =>
    exact ⟨s.hardReset straps, rfl, s.hardReset_permit straps,
      forbids_of_unused _ fun k => congrArg PermitEntry.used (s.hardReset_permit straps k)⟩
  case passive =>
    obtain hkept | hreset := step_permits_of_passive hs h
    · exact (permit_eq_of_permits_eq hkept k).trans (hempty k)
    · exact hreset k

end Sys2Proof.Machine
end
